-- ==== Sys2Proof/Word.lean ====
section
/-! DEFINITION. The two word types of the block (R10): a byte and a 16-bit raw frequency value, both unsigned. -/

namespace Sys2Proof

/-- A byte, an unsigned integer in `0..255`, bit 0 least significant (R10). -/
abbrev Byte := BitVec 8

/-- A raw frequency value, an unsigned integer in `0..65535` (R10). -/
abbrev Word16 := BitVec 16

end Sys2Proof
end

