-- ==== Sys2Proof/Machine/Constants.lean ====
section
/-! DEFINITION. The hardwired, read-only constants of the block (R14, R30). Reset does not change them and no operation
writes them. Their numerals are decimal unless written `0x` (R9). -/

namespace Sys2Proof

/-- `DELIM`, the frame delimiter. -/
abbrev Const.delim : Byte := 0x02#8
/-- `ESC`, the escape marker, ASCII caret. -/
abbrev Const.esc : Byte := 94#8
/-- `BIAS`. -/
abbrev Const.bias : Byte := 64#8
/-- `ADDR`, the device address. -/
abbrev Const.addr : Byte := 1#8
/-- `OP_READ`. -/
abbrev Const.opRead : Byte := 20#8
/-- `OP_WRITE`. -/
abbrev Const.opWrite : Byte := 21#8
/-- `OP_BAND_SWITCH`. -/
abbrev Const.opBandSwitch : Byte := 22#8
/-- `P_POWER`. -/
abbrev Const.pPower : Byte := 21#8
/-- `P_BAND`. -/
abbrev Const.pBand : Byte := 43#8
/-- `P_AM_FREQ`. -/
abbrev Const.pAmFreq : Byte := 44#8
/-- `P_FM_FREQ`. -/
abbrev Const.pFmFreq : Byte := 45#8
/-- `P_MUTE`. -/
abbrev Const.pMute : Byte := 47#8
/-- `P_BLEND`. -/
abbrev Const.pBlend : Byte := 49#8
/-- `P_DEVICE_ID`. -/
abbrev Const.pDeviceId : Byte := 20#8
/-- `STATE_OFF`, a response byte value. -/
abbrev Const.stateOff : Byte := 64#8
/-- `STATE_ON`, a response byte value. -/
abbrev Const.stateOn : Byte := 65#8
/-- `BAND_AM`, a response byte value. -/
abbrev Const.bandAm : Byte := 64#8
/-- `BAND_FM`, a response byte value. -/
abbrev Const.bandFm : Byte := 65#8
/-- `FM_TRAILER_SET`. -/
abbrev Const.fmTrailerSet : List Byte := [60#8, 58#8, 56#8, 54#8]

end Sys2Proof
end

