-- ==== Sys2Proof/Config.lean ====
section
/-! DEFINITION. What an implementation fixes and the spec leaves open (R8, the OPEN rows of 92_eei_decisions.md and
the 'any value' rows of 93_implementation_defined.md). Every constant here is opaque, with no body: no proof can
see its value, so a theorem about the model holds for every value the spec allows. -/

namespace Sys2Proof

/-- The two values a power, blend or mute write can set (R8, R221). -/
inductive OnOff where
  | off
  | on
deriving DecidableEq, Repr

/-- The two bands a band switch can select (R8, R227). -/
inductive Band where
  | am
  | fm
deriving DecidableEq, Repr

/-- The response fields that the status decoder reads at an open offset (R8, R192). -/
inductive StatusField where
  | power
  | blend
  | mute
deriving DecidableEq, Repr

/-- By how much `BUF_DEPTH` exceeds its least value 7 (R8, D17): any value of `0..248`. -/
opaque Config.bufDepthAboveSeven : Fin 249

/-- `BUF_DEPTH`, the deframer's capacity, an open integer with `7 <= BUF_DEPTH <= 255` (R8, D17). -/
def Config.bufDepth : Nat := Config.bufDepthAboveSeven.val + 7

/-- `READ_DATA(p)`, the data bytes after the parameter of a read command, open and possibly empty (R8, D33). -/
opaque Config.readData : Byte → List Byte

/-- `STATE_DATA(v)`, the data bytes of a write that sets power, blend or mute to `v`, open (R8, D30). -/
opaque Config.stateData : OnOff → List Byte

/-- `SWITCH_BAND_PARAM`, the parameter byte of the band-switch command, open (R8, D31). -/
opaque Config.switchBandParam : Byte

/-- `SWITCH_BAND_DATA(band)`, the data bytes of the band-switch command, open (R8, D31). -/
opaque Config.switchBandData : Band → List Byte

/-- `DEVICE_ID_READ`, the full payload of the device-id read command, open (R8, R232, D32). -/
opaque Config.deviceIdRead : List Byte

/-- `STATUS_OFFSET(field)`, the response index of the power, blend and mute bytes, open (R8, D34). -/
opaque Config.statusOffset : StatusField → Byte

/-- `BAND_OFFSET`, the response index of the band byte, open (R8, D34). -/
opaque Config.bandOffset : Byte

/-- What the channel's input queue holds at power-on: any byte list (R40, I19). -/
opaque Config.rxqAtReset : List Byte

end Sys2Proof
end

