-- ==== Sys2Proof/Machine/State.lean ====
section
/-! DEFINITION. The machine's state as plain data: the deframer's fields (R32), the channel's input queue (R36), what
the block has answered to the host (R71), what the host has written to the channel (R39), the sequences the host is carrying
out (R77), and the moves the agents are about to make (R20, R38). -/

namespace Sys2Proof.Machine

/-- The status codes a result descriptor can carry (R250). No other value is ever produced. -/
inductive Status where
  | ok
  | pending
  | errIllegalOp
  | errOperand
  | errShortResponse
  | errBusy
  | errNoFrame
  | errChannel
  | errOverflow
deriving DecidableEq, Repr

/-- A result descriptor `[STATUS, RLEN, Q...]` (R71): `RLEN` is the length of `q`. -/
structure ResultDesc where
  status : Status
  q : List Byte
deriving DecidableEq, Repr

/-- The phase of the two-phase read, `dstate` (R32). -/
inductive DState where
  | idle
  | awaitDelim
  | awaitPayload
  | done
  | error
deriving DecidableEq, Repr

/-- Why `dstate` is `ERROR`, `derr` (R32): `NONE`, `ERR_CHANNEL` or `ERR_OVERFLOW`. -/
inductive DErr where
  | none
  | channel
  | overflow
deriving DecidableEq, Repr

/-- The channel's free draws at one deframer step (R37): whether its `RxRead()` and its `RxFlush()` fail. -/
structure ChannelDraw where
  readFails : Bool
  flushFails : Bool
deriving DecidableEq, Repr

/-- What a host sequence does with the payload that `DEFRAME_READ` returns: issue the decoder `op` on the operand bytes
`before`, then the payload (R77). -/
structure PayloadUse where
  op : Byte
  before : List Byte
deriving DecidableEq, Repr

/-- One action of a host sequence, in which the pseudo-operations of R77 are written. An action that answers an error
status, or a write that fails, ends its sequence (log entry 19). -/
inductive HostAction where
  /-- Issue a descriptor. -/
  | issue (bytes : List Byte)
  /-- Issue a framer's descriptor; the frame it returns is what the host then writes to the channel (R39, R77). -/
  | frame (bytes : List Byte)
  /-- Write bytes to the channel (R39). -/
  | write (bytes : List Byte)
  /-- Issue `DEFRAME_READ`, repeated until `STATUS != PENDING` (R77); then, if `use` names a decoder, issue it on the
  returned payload. -/
  | poll (use : Option PayloadUse)
deriving DecidableEq, Repr

/-- One move of one agent (R20). The order of the moves is the free interleaving of R38 and R57. -/
inductive Move where
  /-- The host issues a command descriptor, and the command unit executes it (R20, R70). -/
  | issue (bytes : List Byte)
  /-- The host asks for the frame of a wire command, given by its logical command (R81, 45_framer.md section 2). -/
  | issueWire (bytes : List Byte)
  /-- The host writes `bytes` to the channel (R39). `none`: all are written. `some k`: the write fails after `k` bytes (R274). -/
  | hostWrite (bytes : List Byte) (failsAfter : Option Nat)
  /-- The host takes the next action of its current sequence (R77). `writeFailsAfter` is the draw of a failing write, for an
  action that writes: `none`, or how many bytes are written before it fails (R274). -/
  | host (writeFailsAfter : Option Nat)
  /-- The channel appends one received byte to its input queue, `Deliver(b)` (R36). -/
  | deliver (b : Byte)
  /-- The deframer takes a step, if it has one, with the channel's draws at it (R167 to R172). -/
  | deframe (draw : ChannelDraw)
deriving DecidableEq, Repr

/-- A byte store: the bytes that hold a value, by index, indices strictly rising. An index that is not listed holds no
value (R33: absent, never zero). -/
abbrev Memory := List Host.Cell

/-- The state of the block and of the agents around it. -/
structure State where
  /-- `dstate` (R32). -/
  dstate : DState
  /-- `echo_count`, 8 bits (R32): bytes taken before the delimiter in the current read. -/
  echoCount : Byte
  /-- `n_expect`, 8 bits (R32): the bytes the payload read must take. -/
  nExpect : Byte
  /-- `pay_count`, 8 bits (R32): payload bytes taken so far. -/
  payCount : Byte
  /-- `pay_buf`, `BUF_DEPTH` bytes (R32, R33). -/
  payBuf : Memory
  /-- `derr` (R32). -/
  derr : DErr
  /-- `rxq`, the channel's input queue (R36). -/
  rxq : List Byte
  /-- The bytes the host has written to the channel, oldest first (R39). -/
  sent : List Byte
  /-- The result descriptors the block has returned to the host, newest first (R20, R71). -/
  results : List ResultDesc
  /-- The sequences of actions the host has yet to carry out, the current one first: the model's own field for the
  pseudo-operations of R77, which are the host's and not the block's. -/
  host : List (List HostAction)
  /-- The moves the agents are about to make, next first: the model's own field for the free schedule (R38). -/
  moves : List Move
deriving DecidableEq, Repr

/-- Why the machine stops where the spec has no such behaviour. Each is raised only in states that no run reaches
(`Safety.lean`, `SoundState`), and each is safe: a stop proves nothing that is false of the block. -/
inductive Fault where
  /-- Raised by the payload step when `pay_count` is no index of `pay_buf` (R51, R169: the write is in range). Safe. -/
  | payIndexOutOfRange
  /-- Raised by `DEFRAME_READ` in `DONE` when a byte of `pay_buf[0..pay_count)` holds no value (R33: no operation reads such a byte). Safe. -/
  | unwrittenPayByte
  /-- Raised by `DEFRAME_READ` in `ERROR` when `derr` is `NONE` (R175 raises `derr`, and `NONE` is no status). Safe. -/
  | errorWithoutCode
deriving DecidableEq, Repr

/-- Why the model refuses a move. -/
inductive Refusal where
  /-- Raised by `exec` for an instruction that has no meaning in this model. Safe. -/
  | notModelled (mnemonic : String)
  /-- Raised by the command unit for bytes that are no command descriptor: not `2 + LEN` bytes (R75; the host never
  delivers them, R270). Safe. -/
  | notADescriptor
  /-- Raised for bytes that are no logical command of a wire row of the opcode table (R85). Safe. -/
  | notAWireCommand
deriving DecidableEq, Repr

/-- The answer of a meaning or of a step. -/
abbrev Out := Host.Outcome State Fault Refusal

/-- The state right after power-on (R40, R280): the deframer idle, nothing counted, nothing written, no error; nothing
answered, nothing sent, no host sequence and no move pending. What the channel's queue holds is open (R40, I19). -/
def State.reset : State where
  dstate := .idle
  echoCount := 0
  nExpect := 0
  payCount := 0
  payBuf := []
  derr := .none
  rxq := Config.rxqAtReset
  sent := []
  results := []
  host := []
  moves := []

end Sys2Proof.Machine
end

