-- ==== Sys2Proof/Machine/Operands.lean ====
section
/-! DEFINITION. Operand forms: splitting and joining the 16-bit raw value, reading an operand list at an index, and
removing the bias. -/

namespace Sys2Proof.Machine

/-- `raw[7:0]`, the low byte, first in every byte list (R52, R54, R142). -/
def loByte (raw : Word16) : Byte := raw.extractLsb' 0 8

/-- `raw[15:8]`, the high byte (R52, R142). -/
def hiByte (raw : Word16) : Byte := raw.extractLsb' 8 8

/-- `split16(raw) = (b0, b1)` (R142). -/
def split16 (raw : Word16) : Byte × Byte := (loByte raw, hiByte raw)

/-- `join16(b0, b1) = zext_16(b0) | (zext_16(b1) << 8)` (R52, R142). -/
def join16 (b0 b1 : Byte) : Word16 := b0.setWidth 16 ||| (b1.setWidth 16 <<< 8)

/-- `[raw[7:0], raw[15:8]]`, a 16-bit value as two result bytes, low byte first (R54). -/
def rawBytes (raw : Word16) : List Byte := [loByte raw, hiByte raw]

/-- `R[i]` of an operand list: an index at or past the end raises `ERR_SHORT_RESPONSE` (R13, R253). -/
def byteAt (r : List Byte) (i : Nat) : Except Status Byte :=
  match r[i]? with
  | some b => .ok b
  | none => .error .errShortResponse

/-- `(b - 64) mod 256`: the bias is removed with an 8-bit wrap (R12, R148). -/
def unbias (b : Byte) : Byte := b - Const.bias

/-- `(b + 64) mod 256`: the bias is applied with an 8-bit wrap (R12). -/
def bias (b : Byte) : Byte := b + Const.bias

/-- The check of an operation without operands: `if LEN != 0: raise ERR_OPERAND` (R73, R252). -/
def noOperands (a : List Byte) : Bool := decide (a.length = 0)

end Sys2Proof.Machine
end

