-- ==== Sys2Proof/Syntax.lean ====
section
/-! DEFINITION. The instructions: one constructor per row of spec/opcode_table.json. Sixteen are the block operations,
each with the operand bytes `A[0..LEN)` of its command descriptor (R70, R73; `LEN` is the list's length). Thirteen are
the wire commands, each with the bytes of its logical command (R81) that the table leaves open. -/

namespace Sys2Proof

/-- An instruction: a block operation of R73, or a wire command of R220 to R232. -/
inductive Instr where
  /-- `NOP` (R240). -/
  | nop (a : List Byte)
  /-- `RESET` (R241). -/
  | reset (a : List Byte)
  /-- `CKSUM` (R101): the byte list `P`. -/
  | cksum (p : List Byte)
  /-- `STUFF_FM` (R121): `b0, b1`. -/
  | stuffFm (a : List Byte)
  /-- `STUFF_AM` (R124): `b0, b1`. -/
  | stuffAm (a : List Byte)
  /-- `UNSTUFF_FM` (R127): the tail. -/
  | unstuffFm (t : List Byte)
  /-- `DEC_FM` (R146): the response `R`. -/
  | decFm (r : List Byte)
  /-- `DEC_AM` (R148): the response `R`. -/
  | decAm (r : List Byte)
  /-- `DEFRAME_START` (R166). -/
  | deframeStart (a : List Byte)
  /-- `DEFRAME_READ` (R175). -/
  | deframeRead (a : List Byte)
  /-- `DEFRAME_ABORT` (R173). -/
  | deframeAbort (a : List Byte)
  /-- `DEC_STATE` (R192): `off`, then the response `R`. -/
  | decState (a : List Byte)
  /-- `DEC_BAND` (R194): `off`, then the response `R`. -/
  | decBand (a : List Byte)
  /-- `FRAME_CMD` (R213): `opcode, param, data`. -/
  | frameCmd (a : List Byte)
  /-- `FRAME_SET_FM` (R215): `raw[7:0], raw[15:8]` in units of 0.01 MHz. -/
  | frameSetFm (a : List Byte)
  /-- `FRAME_SET_AM` (R217): `raw[7:0], raw[15:8]` in kHz. -/
  | frameSetAm (a : List Byte)
  /-- `GET_POWER` (R220): the data bytes `READ_DATA(21)`. -/
  | getPower (data : List Byte)
  /-- `SET_POWER` (R221): the data bytes `STATE_DATA(v)`. -/
  | setPower (data : List Byte)
  /-- `GET_BLEND` (R222): the data bytes `READ_DATA(49)`. -/
  | getBlend (data : List Byte)
  /-- `SET_BLEND` (R223): the data bytes `STATE_DATA(v)`. -/
  | setBlend (data : List Byte)
  /-- `GET_MUTE` (R224): the data bytes `READ_DATA(47)`. -/
  | getMute (data : List Byte)
  /-- `SET_MUTE` (R225): the data bytes `STATE_DATA(v)`. -/
  | setMute (data : List Byte)
  /-- `GET_BAND` (R226): the data bytes `READ_DATA(43)`. -/
  | getBand (data : List Byte)
  /-- `SWITCH_BAND` (R227): the parameter `SWITCH_BAND_PARAM`, then the data bytes `SWITCH_BAND_DATA(band)`. -/
  | switchBand (param : Byte) (data : List Byte)
  /-- `GET_FM` (R228): the data bytes `READ_DATA(45)`. -/
  | getFm (data : List Byte)
  /-- `SET_FM` (R229): the raw value in units of 0.01 MHz. -/
  | setFm (raw : Word16)
  /-- `GET_AM` (R230): the data bytes `READ_DATA(44)`. -/
  | getAm (data : List Byte)
  /-- `SET_AM` (R231): the raw value in kHz. -/
  | setAm (raw : Word16)
  /-- `GET_DEVICE_ID` (R232): the data bytes `READ_DATA(20)` of the spec's reading. -/
  | getDeviceId (data : List Byte)
deriving DecidableEq, Repr

/-- The two encodings that live in the block (30_encoding.md): the command descriptor of R70, and the logical command
of R81, which the opcode table calls `wire_payload`. -/
inductive Format where
  | descriptor
  | wire
deriving DecidableEq, Repr

/-- The encoding an instruction is written in. -/
def Instr.format : Instr → Format
  | .nop _ => .descriptor
  | .reset _ => .descriptor
  | .cksum _ => .descriptor
  | .stuffFm _ => .descriptor
  | .stuffAm _ => .descriptor
  | .unstuffFm _ => .descriptor
  | .decFm _ => .descriptor
  | .decAm _ => .descriptor
  | .deframeStart _ => .descriptor
  | .deframeRead _ => .descriptor
  | .deframeAbort _ => .descriptor
  | .decState _ => .descriptor
  | .decBand _ => .descriptor
  | .frameCmd _ => .descriptor
  | .frameSetFm _ => .descriptor
  | .frameSetAm _ => .descriptor
  | .getPower _ => .wire
  | .setPower _ => .wire
  | .getBlend _ => .wire
  | .setBlend _ => .wire
  | .getMute _ => .wire
  | .setMute _ => .wire
  | .getBand _ => .wire
  | .switchBand _ _ => .wire
  | .getFm _ => .wire
  | .setFm _ => .wire
  | .getAm _ => .wire
  | .setAm _ => .wire
  | .getDeviceId _ => .wire

end Sys2Proof
end

