-- ==== Sys2Proof/WellFormed.lean ====
section
/-! DEFINITION. Which instructions have an encoding. A descriptor's `LEN` is one byte, so its operand list has at most
255 bytes (R70). A wire command is framed by `FRAME_CMD opcode, param, data...` (45_framer.md section 2), whose
descriptor must itself exist, so its data list has at most 253 bytes. -/

namespace Sys2Proof

/-- The operand bytes fit one descriptor: `LEN` is a byte (R70). -/
def operandsFit (a : List Byte) : Bool := decide (a.length ≤ 255)

/-- The data bytes of a wire command fit the descriptor that frames it, `LEN = 2 + len(data)` (R70, R213). -/
def wireDataFits (d : List Byte) : Bool := decide (d.length ≤ 253)

/-- The instruction has an encoding. -/
def Instr.wf : Instr → Bool
  | .nop a => operandsFit a
  | .reset a => operandsFit a
  | .cksum p => operandsFit p
  | .stuffFm a => operandsFit a
  | .stuffAm a => operandsFit a
  | .unstuffFm t => operandsFit t
  | .decFm r => operandsFit r
  | .decAm r => operandsFit r
  | .deframeStart a => operandsFit a
  | .deframeRead a => operandsFit a
  | .deframeAbort a => operandsFit a
  | .decState a => operandsFit a
  | .decBand a => operandsFit a
  | .frameCmd a => operandsFit a
  | .frameSetFm a => operandsFit a
  | .frameSetAm a => operandsFit a
  | .getPower d => wireDataFits d
  | .setPower d => wireDataFits d
  | .getBlend d => wireDataFits d
  | .setBlend d => wireDataFits d
  | .getMute d => wireDataFits d
  | .setMute d => wireDataFits d
  | .getBand d => wireDataFits d
  | .switchBand _ d => wireDataFits d
  | .getFm d => wireDataFits d
  | .setFm _ => true
  | .getAm d => wireDataFits d
  | .setAm _ => true
  | .getDeviceId d => wireDataFits d

end Sys2Proof
end

