-- ==== Sys2Proof/Decode.lean ====
section
/-! DEFINITION. Decoding, total on any bytes, and the encoder. Two encodings (30_encoding.md): the command descriptor
`[OP, LEN, A...]` of R70, and the logical command `[1, opcode, parameter, data...]` of R81 that a wire row of the opcode
table is matched on (R85). Last, the words of the opcode table as bytes. -/

namespace Sys2Proof

open Sys2Proof.Machine

/-- Why bytes are no instruction. -/
inductive DecodeError where
  /-- Not `2 + LEN` bytes, so no descriptor (R75). -/
  | notDescriptor
  /-- A descriptor whose `OP` is not in the table of R73 (R74). -/
  | illegalOp (op : Byte)
  /-- No logical command of a wire row of the opcode table (R85). -/
  | notWire
deriving DecidableEq, Repr

/-! ### Command descriptors -/

/-- The operation an `OP` selects, with its operand bytes: the table of R73. `none`: an illegal `OP` (R74). -/
def decodeOp (op : Byte) (a : List Byte) : Option Instr :=
  match op.toNat with
  | 0x00 => some (.nop a)
  | 0x01 => some (.reset a)
  | 0x10 => some (.cksum a)
  | 0x20 => some (.stuffFm a)
  | 0x21 => some (.stuffAm a)
  | 0x22 => some (.unstuffFm a)
  | 0x30 => some (.decFm a)
  | 0x31 => some (.decAm a)
  | 0x40 => some (.deframeStart a)
  | 0x41 => some (.deframeRead a)
  | 0x42 => some (.deframeAbort a)
  | 0x50 => some (.decState a)
  | 0x51 => some (.decBand a)
  | 0x60 => some (.frameCmd a)
  | 0x61 => some (.frameSetFm a)
  | 0x62 => some (.frameSetAm a)
  | _ => none

/-- Decode a command descriptor (R70, R75). `LEN` alone tells its length. Whether the operation allows that `LEN` is
checked when it runs, so that `ERR_ILLEGAL_OP` comes before `ERR_OPERAND` (R258). -/
def decodeDescriptor : List Byte → Except DecodeError Instr
  | op :: len :: a =>
    if a.length = len.toNat then
      match decodeOp op a with
      | some i => .ok i
      | none => .error (.illegalOp op)
    else .error .notDescriptor
  | _ => .error .notDescriptor

/-- The numbers of operand bytes that the table of R73 allows an operation. A wire command has no `LEN` of its own. -/
def lenAllowed (i : Instr) (n : Nat) : Bool :=
  match i with
  | .nop _ => decide (n = 0)
  | .reset _ => decide (n = 0)
  | .cksum _ => decide (1 ≤ n) && decide (n ≤ 255)
  | .stuffFm _ => decide (n = 2)
  | .stuffAm _ => decide (n = 2)
  | .unstuffFm _ => decide (n = 2) || decide (n = 3)
  | .decFm _ => decide (n ≤ 255)
  | .decAm _ => decide (n ≤ 255)
  | .deframeStart _ => decide (n = 0)
  | .deframeRead _ => decide (n = 0)
  | .deframeAbort _ => decide (n = 0)
  | .decState _ => decide (1 ≤ n) && decide (n ≤ 255)
  | .decBand _ => decide (1 ≤ n) && decide (n ≤ 255)
  | .frameCmd _ => decide (2 ≤ n) && decide (n ≤ 252)
  | .frameSetFm _ => decide (n = 2)
  | .frameSetAm _ => decide (n = 2)
  | .getPower _ => true
  | .setPower _ => true
  | .getBlend _ => true
  | .setBlend _ => true
  | .getMute _ => true
  | .setMute _ => true
  | .getBand _ => true
  | .switchBand _ _ => true
  | .getFm _ => true
  | .setFm _ => true
  | .getAm _ => true
  | .setAm _ => true
  | .getDeviceId _ => true

/-- The operand bytes of a descriptor operation (R70); of a wire command, the bytes its row leaves open. -/
def Instr.operands : Instr → List Byte
  | .nop a => a
  | .reset a => a
  | .cksum a => a
  | .stuffFm a => a
  | .stuffAm a => a
  | .unstuffFm a => a
  | .decFm a => a
  | .decAm a => a
  | .deframeStart a => a
  | .deframeRead a => a
  | .deframeAbort a => a
  | .decState a => a
  | .decBand a => a
  | .frameCmd a => a
  | .frameSetFm a => a
  | .frameSetAm a => a
  | .getPower d => d
  | .setPower d => d
  | .getBlend d => d
  | .setBlend d => d
  | .getMute d => d
  | .setMute d => d
  | .getBand d => d
  | .switchBand p d => p :: d
  | .getFm d => d
  | .setFm raw => rawBytes raw
  | .getAm d => d
  | .setAm raw => rawBytes raw
  | .getDeviceId d => d

/-! ### Wire commands -/

/-- A frequency write's logical command has exactly two data bytes, low byte first (R81, R229, R231). -/
def decodeRaw (d : List Byte) : Option Word16 :=
  match d with
  | [b0, b1] => some (join16 b0 b1)
  | _ => none

/-- The wire command of an opcode and a parameter, with its data bytes: the rows of R220 to R232. -/
def decodeWireRow (op p : Byte) (d : List Byte) : Option Instr :=
  match op.toNat with
  | 20 =>
    match p.toNat with
    | 21 => some (.getPower d)
    | 49 => some (.getBlend d)
    | 47 => some (.getMute d)
    | 43 => some (.getBand d)
    | 45 => some (.getFm d)
    | 44 => some (.getAm d)
    | 20 => some (.getDeviceId d)
    | _ => none
  | 21 =>
    match p.toNat with
    | 21 => some (.setPower d)
    | 49 => some (.setBlend d)
    | 47 => some (.setMute d)
    | 45 => (decodeRaw d).map .setFm
    | 44 => (decodeRaw d).map .setAm
    | _ => none
  | 22 => some (.switchBand p d)
  | _ => none

/-- Decode a logical command `[1, opcode, parameter, data...]` (R81, R85). -/
def decodeWire : List Byte → Except DecodeError Instr
  | dev :: op :: p :: d =>
    if dev = Const.addr ∧ d.length ≤ 253 then
      match decodeWireRow op p d with
      | some i => .ok i
      | none => .error .notWire
    else .error .notWire
  | _ => .error .notWire

/-- Decode the bytes of an instruction written in the format `f`. -/
def decode (f : Format) (bs : List Byte) : Except DecodeError Instr :=
  match f with
  | .descriptor => decodeDescriptor bs
  | .wire => decodeWire bs

/-! ### The encoder -/

/-- The descriptor `[OP, LEN, A...]` (R70). -/
def descriptorBytes (op : Byte) (a : List Byte) : List Byte := op :: BitVec.ofNat 8 a.length :: a

/-- The logical command `[1, opcode, parameter, data...]` (R81). -/
def logicalCommand (op p : Byte) (d : List Byte) : List Byte := [Const.addr, op, p] ++ d

/-- The bytes of an instruction, in its format. -/
def encode : Instr → List Byte
  | .nop a => descriptorBytes 0x00#8 a
  | .reset a => descriptorBytes 0x01#8 a
  | .cksum a => descriptorBytes 0x10#8 a
  | .stuffFm a => descriptorBytes 0x20#8 a
  | .stuffAm a => descriptorBytes 0x21#8 a
  | .unstuffFm a => descriptorBytes 0x22#8 a
  | .decFm a => descriptorBytes 0x30#8 a
  | .decAm a => descriptorBytes 0x31#8 a
  | .deframeStart a => descriptorBytes 0x40#8 a
  | .deframeRead a => descriptorBytes 0x41#8 a
  | .deframeAbort a => descriptorBytes 0x42#8 a
  | .decState a => descriptorBytes 0x50#8 a
  | .decBand a => descriptorBytes 0x51#8 a
  | .frameCmd a => descriptorBytes 0x60#8 a
  | .frameSetFm a => descriptorBytes 0x61#8 a
  | .frameSetAm a => descriptorBytes 0x62#8 a
  | .getPower d => logicalCommand Const.opRead Const.pPower d
  | .setPower d => logicalCommand Const.opWrite Const.pPower d
  | .getBlend d => logicalCommand Const.opRead Const.pBlend d
  | .setBlend d => logicalCommand Const.opWrite Const.pBlend d
  | .getMute d => logicalCommand Const.opRead Const.pMute d
  | .setMute d => logicalCommand Const.opWrite Const.pMute d
  | .getBand d => logicalCommand Const.opRead Const.pBand d
  | .switchBand p d => logicalCommand Const.opBandSwitch p d
  | .getFm d => logicalCommand Const.opRead Const.pFmFreq d
  | .setFm raw => logicalCommand Const.opWrite Const.pFmFreq (rawBytes raw)
  | .getAm d => logicalCommand Const.opRead Const.pAmFreq d
  | .setAm raw => logicalCommand Const.opWrite Const.pAmFreq (rawBytes raw)
  | .getDeviceId d => logicalCommand Const.opRead Const.pDeviceId d

/-! ### Assembler syntax (R76) -/

/-- The operation codes by mnemonic (R73). -/
def opcodeTable : List (String × Byte) :=
  [("NOP", 0x00#8),
   ("RESET", 0x01#8),
   ("CKSUM", 0x10#8),
   ("STUFF_FM", 0x20#8),
   ("STUFF_AM", 0x21#8),
   ("UNSTUFF_FM", 0x22#8),
   ("DEC_FM", 0x30#8),
   ("DEC_AM", 0x31#8),
   ("DEFRAME_START", 0x40#8),
   ("DEFRAME_READ", 0x41#8),
   ("DEFRAME_ABORT", 0x42#8),
   ("DEC_STATE", 0x50#8),
   ("DEC_BAND", 0x51#8),
   ("FRAME_CMD", 0x60#8),
   ("FRAME_SET_FM", 0x61#8),
   ("FRAME_SET_AM", 0x62#8)]

/-- An operand of the assembler: a byte, or `#v` for the two bytes of a 16-bit value, low byte first (R76). -/
inductive AsmOperand where
  | byte (b : Byte)
  | word (v : Word16)
deriving DecidableEq, Repr

/-- The operand bytes an assembler operand stands for (R76). -/
def asmOperandBytes : AsmOperand → List Byte
  | .byte b => [b]
  | .word v => rawBytes v

/-- The descriptor of a mnemonic and its operands; `LEN` is implied by the operand count (R76). -/
def assemble (mnemonic : String) (ops : List AsmOperand) : Option (List Byte) :=
  match opcodeTable.lookup mnemonic with
  | none => none
  | some op =>
    let a := ops.flatMap asmOperandBytes
    if a.length ≤ 255 then some (descriptorBytes op a) else none

/-! ### The words of the opcode table -/

/-- A descriptor as a number: byte `k` is bits `8k+7..8k`, so `OP` is the least significant byte, as the table's
descriptor rows have it (R85). `LEN` bytes follow the first two. -/
def descriptorOfWord (w : Nat) : List Byte :=
  let len := w / 256 % 256
  BitVec.ofNat 8 w :: BitVec.ofNat 8 len :: (List.range len).map (fun k => BitVec.ofNat 8 (w / 256 ^ (k + 2)))

/-- A logical command as a 24-bit number: the table writes a wire row's first three bytes left to right in transmission
order (R85: `0x01142D` is `[1, 20, 45]`). The bytes above them are 0: the two data bytes of a frequency write (R229,
R231); the other rows' data lists are open, and no bit stands for them, so they are empty. -/
def logicalOfWord (w : Nat) : List Byte :=
  let op := BitVec.ofNat 8 (w / 256)
  let p := BitVec.ofNat 8 w
  let d := if op = Const.opWrite ∧ (p = Const.pFmFreq ∨ p = Const.pAmFreq) then [0, 0] else []
  [BitVec.ofNat 8 (w / 65536), op, p] ++ d

/-- The format of a table row, by its width: the wire rows are the 24-bit ones. -/
def tableFormat (nbits : Nat) : Format := if nbits = 24 then .wire else .descriptor

/-- The bytes the host delivers for a word of the opcode table; every bit at or above `nbits` is 0. -/
def tableBytes (nbits w : Nat) : List Byte :=
  match tableFormat nbits with
  | .wire => logicalOfWord (w % 2 ^ nbits)
  | .descriptor => descriptorOfWord (w % 2 ^ nbits)

/-- The instruction the decoder reads from a word of the opcode table, `none` where it refuses. -/
def decodeTableWord (nbits w : Nat) : Option Instr :=
  match decode (tableFormat nbits) (tableBytes nbits w) with
  | .ok i => some i
  | .error _ => none

end Sys2Proof
end

