-- ==== Sys2Proof/Machine/Flags.lean ====
section
/-! DEFINITION. The block has no flag register (R26): what other machines flag, it returns as a status code (R250) or as
a tri-state result code (R191, R193). -/

namespace Sys2Proof.Machine

/-- The byte of a status code (R250). -/
def statusCode : Status → Byte
  | .ok => 0x00#8
  | .pending => 0x01#8
  | .errIllegalOp => 0x10#8
  | .errOperand => 0x11#8
  | .errShortResponse => 0x12#8
  | .errBusy => 0x13#8
  | .errNoFrame => 0x14#8
  | .errChannel => 0x20#8
  | .errOverflow => 0x21#8

/-- Whether the code's kind is 'error' in R250: neither `OK` nor `PENDING`. -/
def isErrorStatus : Status → Bool
  | .ok => false
  | .pending => false
  | .errIllegalOp => true
  | .errOperand => true
  | .errShortResponse => true
  | .errBusy => true
  | .errNoFrame => true
  | .errChannel => true
  | .errOverflow => true

/-- The status that a value of `derr` is reported as (R175): `NONE` is none. -/
def derrStatus : DErr → Option Status
  | .none => none
  | .channel => some .errChannel
  | .overflow => some .errOverflow

/-- The bytes `[STATUS, RLEN, Q...]` of a result descriptor (R71). -/
def encodeResult (r : ResultDesc) : List Byte :=
  statusCode r.status :: BitVec.ofNat 8 r.q.length :: r.q

/-- The decoded power, blend or mute state (R190). -/
inductive FieldState where
  | off
  | on
  | unknown
deriving DecidableEq, Repr

/-- The decoded band (R190, R193). -/
inductive BandState where
  | am
  | fm
  | unknown
deriving DecidableEq, Repr

/-- The state a response byte stands for (R191). -/
def fieldStateOf (b : Byte) : FieldState :=
  if b = Const.stateOff then .off else if b = Const.stateOn then .on else .unknown

/-- The result code of a state (R191). -/
def fieldStateCode : FieldState → Byte
  | .off => 0x00#8
  | .on => 0x01#8
  | .unknown => 0x02#8

/-- The band a response byte stands for (R193). -/
def bandStateOf (b : Byte) : BandState :=
  if b = Const.bandAm then .am else if b = Const.bandFm then .fm else .unknown

/-- The result code of a band (R193). -/
def bandStateCode : BandState → Byte
  | .am => 0x00#8
  | .fm => 0x01#8
  | .unknown => 0x02#8

end Sys2Proof.Machine
end

