-- ==== Sys2Proof/Machine/Ops.lean ====
section
/-! DEFINITION. The named operations over the state: the payload buffer's byte reads and writes, the channel's queue, the
updates of the deframer's fields, and how an operation ends (`return xs`, `raise E`; R13). The block has no trap: raising
an error is answering a status and nothing else (R257, R261). -/

namespace Sys2Proof.Machine

/-! ### The payload buffer -/

/-- Read one byte of a store: `none` where the index holds no value (R33). -/
def Memory.read : Memory → Nat → Option Byte
  | [], _ => none
  | (i, v) :: m, a => if a = i then some v else Memory.read m a

/-- Write one byte of a store, keeping the indices in rising order. -/
def Memory.write : Memory → Nat → Byte → Memory
  | [], a, b => [(a, b)]
  | (i, v) :: m, a, b =>
    if a < i then (a, b) :: (i, v) :: m
    else if a = i then (a, b) :: m
    else (i, v) :: Memory.write m a b

/-- The canonical form: indices strictly rising. No listed entry can equal what an unlisted index reads as, which is no
value. -/
def Memory.wf : Memory → Bool
  | [] => true
  | [_] => true
  | (i, _) :: (j, v) :: m => decide (i < j) && Memory.wf ((j, v) :: m)

/-- The bytes at `n` indices from `i` on: `none` if one of them holds no value. -/
def Memory.readRange (m : Memory) (i : Nat) : Nat → Option (List Byte)
  | 0 => some []
  | n + 1 =>
    match Memory.read m i with
    | none => none
    | some b => (Memory.readRange m (i + 1) n).map (b :: ·)

/-! ### Named updates of the state -/

/-- Return a result descriptor to the host. -/
def State.addResult (s : State) (r : ResultDesc) : State := { s with results := r :: s.results }

/-- The channel's queue becomes `q`. -/
def State.setRxq (s : State) (q : List Byte) : State := { s with rxq := q }

/-- The pending moves become `ms`. -/
def State.setMoves (s : State) (ms : List Move) : State := { s with moves := ms }

/-- The host's pending sequences become `hs`. -/
def State.setHost (s : State) (hs : List (List HostAction)) : State := { s with host := hs }

/-- The host has written `bs` to the channel (R39). -/
def State.addSent (s : State) (bs : List Byte) : State := { s with sent := s.sent ++ bs }

/-- Every deframer field to its reset value (R40, R173, R241); the channel's queue is not touched. -/
def State.clearDeframer (s : State) : State :=
  { s with dstate := .idle, echoCount := 0, nExpect := 0, payCount := 0, derr := .none, payBuf := [] }

/-- Begin a read (R166). -/
def State.startRead (s : State) : State :=
  { s with dstate := .awaitDelim, echoCount := 0, nExpect := 0, payCount := 0, derr := .none, payBuf := [] }

/-- A deframer fault: `dstate <- ERROR`, `derr <- e`; the counters and `pay_buf` keep their values (R171, R256). -/
def State.failRead (s : State) (e : DErr) : State := { s with dstate := .error, derr := e }

/-- One more echo byte (R167). -/
def State.countEcho (s : State) : State := { s with echoCount := s.echoCount + 1 }

/-- The echo has ended and the channel is flushed (R168): `n_expect <- echo_count`, then `DONE` or `AWAIT_PAYLOAD`. -/
def State.endEcho (s : State) : State :=
  { s with nExpect := s.echoCount, dstate := if s.echoCount = 0 then .done else .awaitPayload }

/-- One payload byte (R169): stored at `pay_count`, which then rises; `DONE` when it reaches `n_expect`. -/
def State.storePayload (s : State) (b : Byte) : State :=
  { s with payBuf := Memory.write s.payBuf s.payCount.toNat b, payCount := s.payCount + 1,
           dstate := if s.payCount + 1 = s.nExpect then .done else s.dstate }

/-- A read is in progress: `dstate` is `AWAIT_DELIM` or `AWAIT_PAYLOAD` (R57, R254). -/
def State.busy (s : State) : Bool :=
  match s.dstate with
  | .idle => false
  | .awaitDelim => true
  | .awaitPayload => true
  | .done => false
  | .error => false

/-! ### How an operation ends -/

/-- `return xs`: status `OK` and the result bytes (R13). -/
def respond (q : List Byte) (s : State) : Out := .next (s.addResult ⟨.ok, q⟩)

/-- `raise E`: status `E`, no result bytes, and no state written (R13, R257, R261). -/
def raise (e : Status) (s : State) : Out := .next (s.addResult ⟨e, []⟩)

/-- End with status `PENDING`, `RLEN = 0` (R175). -/
def answerPending (s : State) : Out := .next (s.addResult ⟨.pending, []⟩)

/-- The result descriptor of a result computed from operands alone: its bytes under `OK`, or the error it raises with no
bytes (R22, R71, R257). -/
def resultOf (r : Except Status (List Byte)) : ResultDesc :=
  match r with
  | .ok q => ⟨.ok, q⟩
  | .error e => ⟨e, []⟩

/-- End a combinational operation, whose result is a function of its operands alone (R22). -/
def answer (r : Except Status (List Byte)) (s : State) : Out := .next (s.addResult (resultOf r))

/-! ### The channel -/

/-- What `RxRead()` can do: fail, block, or take a byte (R36, R37). -/
inductive RxRead where
  | channelFail
  | blocked
  | byte (b : Byte) (s : State)
deriving DecidableEq, Repr

/-- `RxRead()`: a failing read removes no byte; a read of an empty queue blocks; else the first byte is removed and
returned (R36, R37, R60). -/
def rxRead (fails : Bool) (s : State) : RxRead :=
  if fails then .channelFail
  else
    match s.rxq with
    | [] => .blocked
    | b :: q => .byte b (s.setRxq q)

/-- `RxFlush()`: `none` where it fails, and then nothing is discarded; else the queue is emptied (R36, R37, R60). -/
def rxFlush (fails : Bool) (s : State) : Option State :=
  if fails then none else some (s.setRxq [])

/-- `Deliver(b)`: the channel appends a received byte to the end of its queue (R36). -/
def deliverByte (b : Byte) (s : State) : State := s.setRxq (s.rxq ++ [b])

/-- The host's `write(bytes)`: all of them, or the first `k` where the write fails after `k` (R39, R274). -/
def hostWriteBytes (bs : List Byte) (failsAfter : Option Nat) (s : State) : State :=
  match failsAfter with
  | none => s.addSent bs
  | some k => s.addSent (bs.take k)

end Sys2Proof.Machine
end

