-- ==== Sys2Proof/Machine/Checksum.lean ====
section
/-! DEFINITION. The checksum calculator (40_checksum.md). -/

namespace Sys2Proof.Machine

/-- The 8-bit wrapping sum of a byte list (R100). -/
def byteSum (p : List Byte) : Byte := p.foldl (fun sum b => sum + b) 0

/-- `checksum(P) = ((~sum) + 1) mod 256` (R100). -/
def checksum (p : List Byte) : Byte := ~~~(byteSum p) + 1

/-- The result of `CKSUM` (R101): the empty list is refused. -/
def cksumUnit (p : List Byte) : Except Status (List Byte) :=
  if p.length = 0 then .error .errOperand else .ok [checksum p]

/-- `CKSUM` (R101). -/
def execCksum (p : List Byte) (s : State) : Out := answer (cksumUnit p) s

end Sys2Proof.Machine
end

