-- ==== Sys2Proof/Machine/Control.lean ====
section
/-! DEFINITION. The control operations (46_control.md). -/

namespace Sys2Proof.Machine

/-- `NOP` (R240). -/
def execNop (a : List Byte) (s : State) : Out :=
  if noOperands a then respond [] s else raise .errOperand s

/-- `RESET` (R241): the deframer to the table of R40; the channel's queue is not touched. -/
def execReset (a : List Byte) (s : State) : Out :=
  if noOperands a then respond [] s.clearDeframer else raise .errOperand s

end Sys2Proof.Machine
end

