-- ==== Sys2Proof/Machine/Deframer.lean ====
section
/-! DEFINITION. The response deframer (43_response_deframer.md): the three operations the host issues on it, and the steps
it takes as an agent of its own. -/

namespace Sys2Proof.Machine

/-! ### Operations -/

/-- `DEFRAME_START` (R166, R254). -/
def execDeframeStart (a : List Byte) (s : State) : Out :=
  if noOperands a then
    if s.busy then raise .errBusy s else respond [] s.startRead
  else raise .errOperand s

/-- `DEFRAME_READ` (R175, R255, R256). It writes no state. -/
def execDeframeRead (a : List Byte) (s : State) : Out :=
  if noOperands a then
    match s.dstate with
    | .idle => raise .errNoFrame s
    | .awaitDelim => answerPending s
    | .awaitPayload => answerPending s
    | .done =>
      match Memory.readRange s.payBuf 0 s.payCount.toNat with
      | some q => respond q s
      | none => .fault .unwrittenPayByte
    | .error =>
      match derrStatus s.derr with
      | some e => raise e s
      | none => .fault .errorWithoutCode
  else raise .errOperand s

/-- `DEFRAME_ABORT` (R173): allowed in every `dstate`; the channel's queue is not touched. -/
def execDeframeAbort (a : List Byte) (s : State) : Out :=
  if noOperands a then respond [] s.clearDeframer else raise .errOperand s

/-! ### Steps of the deframer agent, at a capacity `depth` (`BUF_DEPTH`) -/

/-- An echo byte (R167): its value is not kept; the byte past the capacity ends the read. -/
def echoStep (depth : Nat) (s : State) : Out :=
  if s.echoCount.toNat = depth then .next (s.failRead .overflow) else .next s.countEcho

/-- The delimiter (R168): discarded, and the channel's input flushed in the same step. -/
def delimiterStep (flushFails : Bool) (s : State) : Out :=
  match rxFlush flushFails s with
  | none => .next (s.failRead .channel)
  | some s' => .next s'.endEcho

/-- A payload byte (R169): data, whatever its value. -/
def payloadStep (depth : Nat) (b : Byte) (s : State) : Out :=
  if s.payCount.toNat < depth then .next (s.storePayload b) else .fault .payIndexOutOfRange

/-- One step of the deframer (R167 to R172). A read failure is taken before the byte is examined (R258). Where the
deframer has no step (R172) the state stays as it is. -/
def deframeStep (depth : Nat) (draw : ChannelDraw) (s : State) : Out :=
  match s.dstate with
  | .idle => .next s
  | .awaitDelim =>
    match rxRead draw.readFails s with
    | .channelFail => .next (s.failRead .channel)
    | .blocked => .next s
    | .byte b s' => if b = Const.delim then delimiterStep draw.flushFails s' else echoStep depth s'
  | .awaitPayload =>
    match rxRead draw.readFails s with
    | .channelFail => .next (s.failRead .channel)
    | .blocked => .next s
    | .byte b s' => payloadStep depth b s'
  | .done => .next s
  | .error => .next s

end Sys2Proof.Machine
end

