-- ==== Sys2Proof/Machine/Stuffer.lean ====
section
/-! DEFINITION. The byte stuffer (41_byte_stuffer.md): explicit matches over the one byte each path inspects (R120). -/

namespace Sys2Proof.Machine

/-- `stuff_fm(b0, b1) = (tail, trailer)` (R121). -/
def stuffFmBytes (b0 b1 : Byte) : List Byte × List Byte :=
  match b0.toNat with
  | 94 => ([94#8, 94#8, b1], [])
  | 60 => ([b0, b1], [94#8])
  | 58 => ([b0, b1], [94#8])
  | 56 => ([b0, b1], [94#8])
  | 54 => ([b0, b1], [94#8])
  | 2 => ([94#8, 66#8, b1], [])
  | _ => ([b0, b1], [])

/-- The result of `STUFF_FM` (R121): `[len(tail)] ++ tail ++ [len(trailer)] ++ trailer`. -/
def stuffFmUnit (a : List Byte) : Except Status (List Byte) :=
  match a with
  | [b0, b1] =>
    let tx := stuffFmBytes b0 b1
    .ok ([BitVec.ofNat 8 tx.1.length] ++ tx.1 ++ [BitVec.ofNat 8 tx.2.length] ++ tx.2)
  | _ => .error .errOperand

/-- `STUFF_FM` (R121). -/
def execStuffFm (a : List Byte) (s : State) : Out := answer (stuffFmUnit a) s

/-- `stuff_am(b0, b1) = tail` (R124): only `b1 = 2` is escaped, and no bias is applied otherwise (R125, C1). -/
def stuffAmBytes (b0 b1 : Byte) : List Byte :=
  match b1.toNat with
  | 2 => [b0, 94#8, 66#8]
  | _ => [b0, b1]

/-- The result of `STUFF_AM` (R124): `[len(tail)] ++ tail`. -/
def stuffAmUnit (a : List Byte) : Except Status (List Byte) :=
  match a with
  | [b0, b1] =>
    let t := stuffAmBytes b0 b1
    .ok ([BitVec.ofNat 8 t.length] ++ t)
  | _ => .error .errOperand

/-- `STUFF_AM` (R124). -/
def execStuffAm (a : List Byte) (s : State) : Out := answer (stuffAmUnit a) s

/-- The result of `UNSTUFF_FM` (R127): the raw bytes of a tail that R121 can produce, and `ERR_OPERAND` for every other
(R252, D16, I16). R127's third pseudocode line alone would take `[2, b1]` too, which R121 cannot produce (log entry 8). -/
def unstuffFmUnit (t : List Byte) : Except Status (List Byte) :=
  match t with
  | [a0, a1, a2] =>
    if a0 = Const.esc ∧ a1 = 94#8 then .ok [94#8, a2]
    else if a0 = Const.esc ∧ a1 = 66#8 then .ok [unbias 66#8, a2]
    else .error .errOperand
  | [a0, a1] => if a0 ≠ Const.esc ∧ a0 ≠ 2#8 then .ok [a0, a1] else .error .errOperand
  | _ => .error .errOperand

/-- `UNSTUFF_FM` (R127). -/
def execUnstuffFm (t : List Byte) (s : State) : Out := answer (unstuffFmUnit t) s

end Sys2Proof.Machine
end

