-- ==== Sys2Proof/Machine/Framer.lean ====
section
/-! DEFINITION. The serial protocol framer (45_framer.md section 1): it assembles a frame and returns it to the host, who
writes it to the channel (R39, R210). -/

namespace Sys2Proof.Machine

/-- `frame(op, p, d, t, x)` (R211): the checksum is over the logical command, before stuffing (R212). -/
def frame (op p : Byte) (d t x : List Byte) : List Byte :=
  [Const.addr, op, p] ++ t ++ [Const.delim, checksum ([Const.addr, op, p] ++ d)] ++ x

/-- The frame of a command whose data is not stuffed, or `ERR_OPERAND` where `LEN = 2 + len(d)` is over 252 (R213). -/
def unstuffedFrame (op p : Byte) (d : List Byte) : Except Status (List Byte) :=
  if d.length + 2 > 252 then .error .errOperand else .ok (frame op p d d [])

/-- The frame that sets the FM frequency (R215). -/
def fmFrame (b0 b1 : Byte) : List Byte :=
  frame Const.opWrite Const.pFmFreq [b0, b1] (stuffFmBytes b0 b1).1 (stuffFmBytes b0 b1).2

/-- The frame that sets the AM frequency (R217). -/
def amFrame (b0 b1 : Byte) : List Byte :=
  frame Const.opWrite Const.pAmFreq [b0, b1] (stuffAmBytes b0 b1) []

/-- The result of `FRAME_CMD` (R213). -/
def frameCmdUnit (a : List Byte) : Except Status (List Byte) :=
  match a with
  | op :: p :: d => unstuffedFrame op p d
  | _ => .error .errOperand

/-- `FRAME_CMD` (R213). -/
def execFrameCmd (a : List Byte) (s : State) : Out := answer (frameCmdUnit a) s

/-- The result of `FRAME_SET_FM` (R215). -/
def frameSetFmUnit (a : List Byte) : Except Status (List Byte) :=
  match a with
  | [b0, b1] => .ok (fmFrame b0 b1)
  | _ => .error .errOperand

/-- `FRAME_SET_FM` (R215). -/
def execFrameSetFm (a : List Byte) (s : State) : Out := answer (frameSetFmUnit a) s

/-- The result of `FRAME_SET_AM` (R217). -/
def frameSetAmUnit (a : List Byte) : Except Status (List Byte) :=
  match a with
  | [b0, b1] => .ok (amFrame b0 b1)
  | _ => .error .errOperand

/-- `FRAME_SET_AM` (R217). -/
def execFrameSetAm (a : List Byte) (s : State) : Out := answer (frameSetAmUnit a) s

end Sys2Proof.Machine
end

