-- ==== Sys2Proof/Machine/FreqCodec.lean ====
section
/-! DEFINITION. The frequency decoders (42_frequency_codec.md). The raw value is returned low byte first (R54); rounding,
range and presentation are the host's (R140, R141, R144). -/

namespace Sys2Proof.Machine

/-- The result of `DEC_FM` (R146): the marker is looked for at index 3, and no bias is removed. -/
def decFmUnit (r : List Byte) : Except Status (List Byte) := do
  let m ← byteAt r 3
  if m = Const.esc then
    let hi ← byteAt r 5
    let lo ← byteAt r 4
    pure (rawBytes (join16 lo hi))
  else
    let hi ← byteAt r 4
    let lo ← byteAt r 3
    pure (rawBytes (join16 lo hi))

/-- `DEC_FM` (R146). -/
def execDecFm (r : List Byte) (s : State) : Out := answer (decFmUnit r) s

/-- The result of `DEC_AM` (R148): the marker is looked for at index 4. Escaped: `[R[3], R[5] - 64]`. Else:
`[R[4] - 64, R[6] - 64]`. -/
def decAmUnit (r : List Byte) : Except Status (List Byte) := do
  let m ← byteAt r 4
  if m = Const.esc then
    let hi ← byteAt r 5
    let lo ← byteAt r 3
    pure [lo, unbias hi]
  else
    let hi ← byteAt r 6
    let lo ← byteAt r 4
    pure [unbias lo, unbias hi]

/-- `DEC_AM` (R148). -/
def execDecAm (r : List Byte) (s : State) : Out := answer (decAmUnit r) s

end Sys2Proof.Machine
end

