-- ==== Sys2Proof/Machine/StatusDecoder.lean ====
section
/-! DEFINITION. The status field decoder (44_status_decoder.md): a whole byte at the offset the host passes; an
unexpected byte is Unknown and never an error (R190, R195). -/

namespace Sys2Proof.Machine

/-- The result of `DEC_STATE` (R192). -/
def decStateUnit (a : List Byte) : Except Status (List Byte) :=
  match a with
  | [] => .error .errOperand
  | off :: r => do
    let b ← byteAt r off.toNat
    pure [fieldStateCode (fieldStateOf b)]

/-- `DEC_STATE` (R192). -/
def execDecState (a : List Byte) (s : State) : Out := answer (decStateUnit a) s

/-- The result of `DEC_BAND` (R194). -/
def decBandUnit (a : List Byte) : Except Status (List Byte) :=
  match a with
  | [] => .error .errOperand
  | off :: r => do
    let b ← byteAt r off.toNat
    pure [bandStateCode (bandStateOf b)]

/-- `DEC_BAND` (R194). -/
def execDecBand (a : List Byte) (s : State) : Out := answer (decBandUnit a) s

end Sys2Proof.Machine
end

