-- ==== Sys2Proof/Machine/WireCommands.lean ====
section
/-! DEFINITION. The wire commands (45_framer.md section 2). Each is its logical command, framed as that section says: a
read or a state write by `FRAME_CMD`, a frequency write by `FRAME_SET_FM` or `FRAME_SET_AM`. The result descriptor holds
the frame. Writing it to the channel is the host's (R39, `Move.hostWrite`), and what the tuner does with it is in no rule. -/

namespace Sys2Proof.Machine

/-- `GET_POWER` (R220): logical command `[1, 20, 21] ++ data`. -/
def execGetPower (data : List Byte) (s : State) : Out :=
  answer (unstuffedFrame Const.opRead Const.pPower data) s

/-- `SET_POWER` (R221): logical command `[1, 21, 21] ++ data`. -/
def execSetPower (data : List Byte) (s : State) : Out :=
  answer (unstuffedFrame Const.opWrite Const.pPower data) s

/-- `GET_BLEND` (R222): logical command `[1, 20, 49] ++ data`. -/
def execGetBlend (data : List Byte) (s : State) : Out :=
  answer (unstuffedFrame Const.opRead Const.pBlend data) s

/-- `SET_BLEND` (R223): logical command `[1, 21, 49] ++ data`. -/
def execSetBlend (data : List Byte) (s : State) : Out :=
  answer (unstuffedFrame Const.opWrite Const.pBlend data) s

/-- `GET_MUTE` (R224): logical command `[1, 20, 47] ++ data`. -/
def execGetMute (data : List Byte) (s : State) : Out :=
  answer (unstuffedFrame Const.opRead Const.pMute data) s

/-- `SET_MUTE` (R225): logical command `[1, 21, 47] ++ data`. -/
def execSetMute (data : List Byte) (s : State) : Out :=
  answer (unstuffedFrame Const.opWrite Const.pMute data) s

/-- `GET_BAND` (R226): logical command `[1, 20, 43] ++ data`. -/
def execGetBand (data : List Byte) (s : State) : Out :=
  answer (unstuffedFrame Const.opRead Const.pBand data) s

/-- `SWITCH_BAND` (R227): logical command `[1, 22, param] ++ data`. -/
def execSwitchBand (param : Byte) (data : List Byte) (s : State) : Out :=
  answer (unstuffedFrame Const.opBandSwitch param data) s

/-- `GET_FM` (R228): logical command `[1, 20, 45] ++ data`. -/
def execGetFm (data : List Byte) (s : State) : Out :=
  answer (unstuffedFrame Const.opRead Const.pFmFreq data) s

/-- `SET_FM raw` (R229): logical command `[1, 21, 45, raw[7:0], raw[15:8]]`. -/
def execSetFm (raw : Word16) (s : State) : Out := respond (fmFrame (loByte raw) (hiByte raw)) s

/-- `GET_AM` (R230): logical command `[1, 20, 44] ++ data`. -/
def execGetAm (data : List Byte) (s : State) : Out :=
  answer (unstuffedFrame Const.opRead Const.pAmFreq data) s

/-- `SET_AM raw` (R231): logical command `[1, 21, 44, raw[7:0], raw[15:8]]`. -/
def execSetAm (raw : Word16) (s : State) : Out := respond (amFrame (loByte raw) (hiByte raw)) s

/-- `GET_DEVICE_ID` (R232): logical command `[1, 20, 20] ++ data`. -/
def execGetDeviceId (data : List Byte) (s : State) : Out :=
  answer (unstuffedFrame Const.opRead Const.pDeviceId data) s

end Sys2Proof.Machine
end

