-- ==== Sys2Proof/Machine/Dispatch.lean ====
section
/-! DEFINITION. One arm per instruction, each one direct call of its meaning. -/

namespace Sys2Proof.Machine

def exec (i : Instr) (s : State) : Host.Outcome State Fault Refusal :=
  match i with
  | .nop a => Sys2Proof.Machine.execNop a s
  | .reset a => Sys2Proof.Machine.execReset a s
  | .cksum a => Sys2Proof.Machine.execCksum a s
  | .stuffFm a => Sys2Proof.Machine.execStuffFm a s
  | .stuffAm a => Sys2Proof.Machine.execStuffAm a s
  | .unstuffFm a => Sys2Proof.Machine.execUnstuffFm a s
  | .decFm a => Sys2Proof.Machine.execDecFm a s
  | .decAm a => Sys2Proof.Machine.execDecAm a s
  | .deframeStart a => Sys2Proof.Machine.execDeframeStart a s
  | .deframeRead a => Sys2Proof.Machine.execDeframeRead a s
  | .deframeAbort a => Sys2Proof.Machine.execDeframeAbort a s
  | .decState a => Sys2Proof.Machine.execDecState a s
  | .decBand a => Sys2Proof.Machine.execDecBand a s
  | .frameCmd a => Sys2Proof.Machine.execFrameCmd a s
  | .frameSetFm a => Sys2Proof.Machine.execFrameSetFm a s
  | .frameSetAm a => Sys2Proof.Machine.execFrameSetAm a s
  | .getPower d => Sys2Proof.Machine.execGetPower d s
  | .setPower d => Sys2Proof.Machine.execSetPower d s
  | .getBlend d => Sys2Proof.Machine.execGetBlend d s
  | .setBlend d => Sys2Proof.Machine.execSetBlend d s
  | .getMute d => Sys2Proof.Machine.execGetMute d s
  | .setMute d => Sys2Proof.Machine.execSetMute d s
  | .getBand d => Sys2Proof.Machine.execGetBand d s
  | .switchBand p d => Sys2Proof.Machine.execSwitchBand p d s
  | .getFm d => Sys2Proof.Machine.execGetFm d s
  | .setFm raw => Sys2Proof.Machine.execSetFm raw s
  | .getAm d => Sys2Proof.Machine.execGetAm d s
  | .setAm raw => Sys2Proof.Machine.execSetAm raw s
  | .getDeviceId d => Sys2Proof.Machine.execGetDeviceId d s

end Sys2Proof.Machine
end

