-- ==== Sys2Proof/Machine/Agents.lean ====
section
/-! DEFINITION. What each move of an agent does (R20): the command unit's step, the host's step in a sequence
(R77), the deframer's step, the channel's delivery and the host's write. -/

namespace Sys2Proof.Machine

/-- The command unit takes one request: it decodes the bytes and runs the operation (R20, R75). An illegal `OP` raises
`ERR_ILLEGAL_OP` before any operation runs (R74, R251). -/
def commandStep (f : Format) (bs : List Byte) (s : State) : Out :=
  match decode f bs with
  | .ok i => exec i s
  | .error (.illegalOp _) => raise .errIllegalOp s
  | .error .notDescriptor => .refused .notADescriptor
  | .error .notWire => .refused .notAWireCommand

/-- What is left of a host sequence whose current action `a` was answered by `r`, `rest` being the actions after it. An
error ends the sequence. A frame is written next (R39). A poll is repeated while the status is `PENDING`, and the payload it
returns is the operand of the decoder that follows it (R77). -/
def afterResult (a : HostAction) (rest : List HostAction) (r : ResultDesc) : List HostAction :=
  if isErrorStatus r.status then []
  else
    match a with
    | .issue _ => rest
    | .frame _ => .write r.q :: rest
    | .write _ => rest
    | .poll use =>
      if r.status = .pending then .poll use :: rest
      else
        match use with
        | none => rest
        | some u => .issue (descriptorBytes u.op (u.before ++ r.q)) :: rest

/-- The host issues the descriptor of its current action `a`, and its sequence goes on as the result says. -/
def hostIssue (a : HostAction) (bytes : List Byte) (rest : List HostAction) (others : List (List HostAction))
    (s : State) : Out :=
  match commandStep .descriptor bytes s with
  | .next t =>
    match t.results with
    | r :: _ => .next (t.setHost (afterResult a rest r :: others))
    | [] => .next t
  | .fault f => .fault f
  | .refused r => .refused r

/-- The host takes the next action of its current sequence (R77). A sequence with no action left has ended, and the next
one becomes the current one; with no sequence left, nothing changes. A failing write ends its sequence (R274). -/
def hostStep (writeFailsAfter : Option Nat) (s : State) : Out :=
  match s.host with
  | [] => .next s
  | [] :: others => .next (s.setHost others)
  | (.issue bytes :: rest) :: others => hostIssue (.issue bytes) bytes rest others s
  | (.frame bytes :: rest) :: others => hostIssue (.frame bytes) bytes rest others s
  | (.poll use :: rest) :: others => hostIssue (.poll use) (descriptorBytes 0x41#8 []) rest others s
  | (.write bytes :: rest) :: others =>
    match writeFailsAfter with
    | none => .next ((hostWriteBytes bytes none s).setHost (rest :: others))
    | some k => .next ((hostWriteBytes bytes (some k) s).setHost ([] :: others))

/-- One move of one agent (R20, R36, R39, R167 to R172). -/
def moveStep (m : Move) (s : State) : Out :=
  match m with
  | .issue bytes => commandStep .descriptor bytes s
  | .issueWire bytes => commandStep .wire bytes s
  | .hostWrite bytes failsAfter => .next (hostWriteBytes bytes failsAfter s)
  | .host writeFailsAfter => hostStep writeFailsAfter s
  | .deliver b => .next (deliverByte b s)
  | .deframe draw => deframeStep Config.bufDepth draw s

/-- The move that has the host issue the instruction that a word of the opcode table stands for. -/
def tableMove (nbits w : Nat) : Move :=
  match tableFormat nbits with
  | .descriptor => .issue (tableBytes nbits w)
  | .wire => .issueWire (tableBytes nbits w)

/-- What a step does: the next pending move is made. Where none is pending, the block waits for its first descriptor, and
nothing changes (R280). -/
def stepMoves (s : State) : Out :=
  match s.moves with
  | [] => .next s
  | m :: rest => moveStep m (s.setMoves rest)

end Sys2Proof.Machine
end

