-- ==== Sys2Proof/Machine/Step.lean ====
section
/-! DEFINITION. One step of the machine: one move of one agent (R20). -/

namespace Sys2Proof.Machine

/-- One step: the next pending move is made. -/
def step (s : State) : Host.Outcome State Fault Refusal := stepMoves s

/-- `s` with the instruction of an opcode-table word as the host's next request. The block fetches nothing from a memory
(R63): its next instruction is what the host issues next. -/
def State.withFetchWord (s : State) (nbits w : Nat) : State :=
  s.setMoves (tableMove nbits w :: s.moves)

end Sys2Proof.Machine
end

