-- ==== Sys2Proof/Machine/Pseudo.lean ====
section
/-! DEFINITION. The pseudo-operations of R77: sequences of host actions, over the open parameters of R8. The block has no
single operation for them. `hostStep` carries them out: a frame that a framer returns is written to the channel,
`DEFRAME_READ` is repeated until its status is not `PENDING`, and a decoder takes the payload that was returned. The moves of
the channel and of the deframer interleave freely with the host's (R57). -/

namespace Sys2Proof.Machine

/-- `DEFRAME_START`, then `DEFRAME_READ` repeated until `STATUS != PENDING`, then `use` on the returned payload (R77). -/
def pseudoAwait (use : Option PayloadUse) : List HostAction :=
  [.issue (descriptorBytes 0x40#8 []), .poll use]

/-- `GET p` with the data bytes `d` as `READ_DATA(p)`: frame the read command of parameter `p`, write the frame, await the
response (R77). `use` is what follows `GET p` in a longer pseudo-operation. -/
def pseudoGetWith (p : Byte) (d : List Byte) (use : Option PayloadUse) : List HostAction :=
  .frame (descriptorBytes 0x60#8 (Const.opRead :: p :: d)) :: pseudoAwait use

/-- `GET p`, with the open `READ_DATA(p)` (R77). -/
def pseudoGet (p : Byte) : List HostAction := pseudoGetWith p (Config.readData p) none

/-- `GET p`, then the decoder of `use` on the returned payload (R77). -/
def pseudoGetThen (p : Byte) (use : PayloadUse) : List HostAction := pseudoGetWith p (Config.readData p) (some use)

/-- `GET_FM`: `GET 45`, then `DEC_FM` on the returned payload (R77). -/
def pseudoGetFm : List HostAction := pseudoGetThen Const.pFmFreq ⟨0x30#8, []⟩

/-- `GET_AM`: `GET 44`, then `DEC_AM` on the returned payload (R77). -/
def pseudoGetAm : List HostAction := pseudoGetThen Const.pAmFreq ⟨0x31#8, []⟩

/-- The parameter byte of a power, blend or mute field (R30). -/
def statusParam : StatusField → Byte
  | .power => Const.pPower
  | .blend => Const.pBlend
  | .mute => Const.pMute

/-- `GET_POWER`, `GET_BLEND`, `GET_MUTE`: `GET`, then `DEC_STATE STATUS_OFFSET(field), payload...` (R77). -/
def pseudoGetState (f : StatusField) : List HostAction :=
  pseudoGetThen (statusParam f) ⟨0x50#8, [Config.statusOffset f]⟩

/-- `GET_BAND`: `GET 43`, then `DEC_BAND BAND_OFFSET, payload...` (R77). -/
def pseudoGetBand : List HostAction := pseudoGetThen Const.pBand ⟨0x51#8, [Config.bandOffset]⟩

/-- `SET_FM #raw` (R77). -/
def pseudoSetFm (raw : Word16) : List HostAction := .frame (descriptorBytes 0x61#8 (rawBytes raw)) :: pseudoAwait none

/-- `SET_AM #raw` (R77). -/
def pseudoSetAm (raw : Word16) : List HostAction := .frame (descriptorBytes 0x62#8 (rawBytes raw)) :: pseudoAwait none

/-- `SET_STATE p, v` with the data bytes `d` as `STATE_DATA(v)` (R77). -/
def pseudoSetStateWith (p : Byte) (d : List Byte) : List HostAction :=
  .frame (descriptorBytes 0x60#8 (Const.opWrite :: p :: d)) :: pseudoAwait none

/-- `SET_STATE p, v`, with the open `STATE_DATA(v)` (R77). -/
def pseudoSetState (p : Byte) (v : OnOff) : List HostAction := pseudoSetStateWith p (Config.stateData v)

/-- The read command of a parameter with the open data `READ_DATA(p)`, as a logical command (R220 to R232). -/
def readCommand (p : Byte) : List Byte := logicalCommand Const.opRead p (Config.readData p)

/-- The write of a field's state with the open data `STATE_DATA(v)`, as a logical command (R221, R223, R225). -/
def writeStateCommand (f : StatusField) (v : OnOff) : List Byte :=
  logicalCommand Const.opWrite (statusParam f) (Config.stateData v)

/-- The band switch with its open bytes, as a logical command (R227). -/
def switchBandCommand (b : Band) : List Byte :=
  logicalCommand Const.opBandSwitch Config.switchBandParam (Config.switchBandData b)

/-- The device-id read: its full payload is the open `DEVICE_ID_READ` (R8, R232). The spec's reading of it is the row
`GET_DEVICE_ID`, and nothing here assumes it. -/
def deviceIdCommand : List Byte := Config.deviceIdRead

end Sys2Proof.Machine
end

