-- ==== Sys2Proof/Safety.lean ====
section
/-! DEFINITION. What counts as a sound state and a safe run, in the terms the statements use. -/

namespace Sys2Proof.Machine

/-- The payload buffer holds exactly the bytes of the current read: the indices below `pay_count` (R33, R51, R169). -/
def State.payBufExact (s : State) : Prop := s.payBuf.map Prod.fst = List.range s.payCount.toNat

/-- The counts lie in `0..BUF_DEPTH`, and at most `n_expect` payload bytes are taken (R32, R169). -/
def State.countsInRange (s : State) : Prop :=
  s.echoCount.toNat ≤ Config.bufDepth ∧ s.nExpect.toNat ≤ Config.bufDepth ∧ s.payCount.toNat ≤ s.nExpect.toNat

/-- What each phase of the read says of the other deframer fields (R40, R161, R166 to R173). -/
def State.phaseSound (s : State) : Prop :=
  match s.dstate with
  | .idle => s.echoCount = 0 ∧ s.nExpect = 0 ∧ s.payCount = 0 ∧ s.derr = .none
  | .awaitDelim => s.nExpect = 0 ∧ s.payCount = 0 ∧ s.derr = .none
  | .awaitPayload => s.nExpect = s.echoCount ∧ s.payCount.toNat < s.nExpect.toNat ∧ s.derr = .none
  | .done => s.nExpect = s.echoCount ∧ s.payCount = s.nExpect ∧ s.derr = .none
  | .error => s.derr ≠ .none

/-- A result descriptor has at most 255 result bytes, and none unless its status is `OK` (R71, R175, R257). -/
def ResultDesc.sound (r : ResultDesc) : Prop := r.q.length ≤ 255 ∧ (r.status ≠ .ok → r.q = [])

/-- The invariant of the machine: every state a run from reset reaches is sound. -/
def SoundState (s : State) : Prop :=
  s.payBufExact ∧ s.countsInRange ∧ s.phaseSound ∧ ∀ r ∈ s.results, r.sound

/-- The answer is no fault. -/
def noFault (o : Out) : Prop := ∀ f, o ≠ .fault f

/-- `k` steps, stopping at the first fault or refusal (it is `Host.Core.run core k`, `Laws/Run.lean`). -/
def runSteps : Nat → State → Out
  | 0, s => .next s
  | k + 1, s =>
    match step s with
    | .next t => runSteps k t
    | .fault f => .fault f
    | .refused r => .refused r

/-- The host's validation of an FM frequency, on the raw value (R271): not a rule of the block. -/
def validFm (raw : Nat) : Prop := 8750 ≤ raw ∧ raw ≤ 10800

/-- The host's validation of an AM frequency, on the raw value (R271): not a rule of the block. -/
def validAm (raw : Nat) : Prop := 531 ≤ raw ∧ raw ≤ 1602 ∧ (raw - 531) % 9 = 0

/-- The operations whose result is a function of their operands alone (R22): the units that read and write no block
state, and `NOP`. -/
def combinational : Instr → Bool
  | .reset _ => false
  | .deframeStart _ => false
  | .deframeRead _ => false
  | .deframeAbort _ => false
  | .nop _ => true
  | .cksum _ => true
  | .stuffFm _ => true
  | .stuffAm _ => true
  | .unstuffFm _ => true
  | .decFm _ => true
  | .decAm _ => true
  | .decState _ => true
  | .decBand _ => true
  | .frameCmd _ => true
  | .frameSetFm _ => true
  | .frameSetAm _ => true
  | .getPower _ => true
  | .setPower _ => true
  | .getBlend _ => true
  | .setBlend _ => true
  | .getMute _ => true
  | .setMute _ => true
  | .getBand _ => true
  | .switchBand _ _ => true
  | .getFm _ => true
  | .setFm _ => true
  | .getAm _ => true
  | .setAm _ => true
  | .getDeviceId _ => true

/-- From a state with no read in progress, three moves of the host carry `seq` out up to its first poll: the frame `f` is
built and written to the channel, and the deframer awaits the delimiter (R77, R166). -/
def sendsAndStarts (seq : List HostAction) (f : List Byte) (use : Option PayloadUse) : Prop :=
  ∀ (s : State) (others : List (List HostAction)) (ms : List Move),
    s.dstate ≠ .awaitDelim → s.dstate ≠ .awaitPayload → s.host = seq :: others →
    s.moves = [.host none, .host none, .host none] ++ ms →
    runSteps 3 s = .next
      { s with dstate := .awaitDelim, echoCount := 0, nExpect := 0, payCount := 0, payBuf := [], derr := .none,
               sent := s.sent ++ f, results := ⟨.ok, []⟩ :: ⟨.ok, f⟩ :: s.results,
               host := [.poll use] :: others, moves := ms }

/-- The descriptor is `DEFRAME_START`, `DEFRAME_ABORT` or `RESET`, with whatever operands (R179, R256). -/
def restartingDescriptor (bytes : List Byte) : Bool :=
  match decode .descriptor bytes with
  | .ok (.reset _) => true
  | .ok (.deframeStart _) => true
  | .ok (.deframeAbort _) => true
  | _ => false

/-- The next step is the host restarting or clearing the deframer, by a request of its own or in a sequence. -/
def restartsNext (s : State) : Bool :=
  match s.moves with
  | .issue bytes :: _ => restartingDescriptor bytes
  | .host _ :: _ =>
    match s.host with
    | (.issue bytes :: _) :: _ => restartingDescriptor bytes
    | (.frame bytes :: _) :: _ => restartingDescriptor bytes
    | _ => false
  | _ => false

/-- None of the next `k` steps restarts or clears the deframer. -/
def noRestartIn : Nat → State → Bool
  | 0, _ => true
  | k + 1, s =>
    !restartsNext s &&
      match step s with
      | .next t => noRestartIn k t
      | _ => true

/-- The byte that the next step takes from the channel by `RxRead()`: the next move is a deframer step that has a byte
to take (R36, R172). -/
def takenByStep (s : State) : Option Byte :=
  match s.moves with
  | .deframe draw :: _ => if s.busy = true ∧ draw.readFails = false then s.rxq.head? else none
  | _ => none

/-- The bytes that the next `k` steps take from the channel by `RxRead()`, in order: what a flush discards is not taken. -/
def takenInSteps : Nat → State → List Byte
  | 0, _ => []
  | k + 1, s =>
    (takenByStep s).toList ++
      match step s with
      | .next t => takenInSteps k t
      | _ => []

end Sys2Proof.Machine
end

