-- ==== Sys2Proof/Certificates/Slice0/Obligations.lean ====
section
/-! DEFINITION. The statements for the provers. A meaning's answer is written out as a whole state, `{ s with … }`, so
each equation says also what stays unchanged: every field that it does not name. -/

open Sys2Proof Sys2Proof.Machine

/-! ### The machine around the operations -/

/-- R20, R56, R75: where the host's next request decodes to an instruction, the step is `exec` of it, with the request
taken from the pending moves. Both clauses rest on choices of the model: the pending moves are its own schedule (log entry
1), and a request that is a wire command's logical command (the second clause) is its own, not the spec's (log entry 7). -/
def Obligations.StepRunsTheDecodedInstruction : Prop :=
  (∀ (s : State) (bs : List Byte) (rest : List Move) (i : Instr), decode .descriptor bs = .ok i →
    s.moves = .issue bs :: rest → step s = exec i { s with moves := rest }) ∧
  (∀ (s : State) (bs : List Byte) (rest : List Move) (i : Instr), decode .wire bs = .ok i →
    s.moves = .issueWire bs :: rest → step s = exec i { s with moves := rest })

/-- Words written out from R70, R73, R76 and R85, at least one for each unit of R73's table and two of the wire commands,
decode to the instructions they stand for. -/
def Obligations.WordsOfTheSpecDecode : Prop :=
  decode .descriptor [0x00, 0] = .ok (.nop []) ∧
  decode .descriptor [0x10, 5, 1, 21, 45, 208, 37] = .ok (.cksum [1, 21, 45, 208, 37]) ∧
  decode .descriptor [0x22, 3, 94, 66, 35] = .ok (.unstuffFm [94, 66, 35]) ∧
  decode .descriptor [0x31, 6, 1, 21, 44, 19, 94, 66] = .ok (.decAm [1, 21, 44, 19, 94, 66]) ∧
  decode .descriptor [0x40, 0] = .ok (.deframeStart []) ∧
  decode .descriptor [0x50, 5, 3, 1, 20, 21, 65] = .ok (.decState [3, 1, 20, 21, 65]) ∧
  decode .descriptor [0x61, 2, 0xD0, 0x25] = .ok (.frameSetFm [0xD0, 0x25]) ∧
  decode .wire [1, 20, 45] = .ok (.getFm []) ∧
  decode .wire [1, 21, 44, 0x13, 0x02] = .ok (.setAm 531)

/-- R74, R251: a descriptor whose `OP` is one of the unassigned values raises `ERR_ILLEGAL_OP`, whatever its operands,
and changes no other state. -/
def Obligations.UnassignedOpRaisesIllegalOp : Prop :=
  ∀ (s : State) (op : Byte) (a : List Byte) (rest : List Move), a.length ≤ 255 →
    ((0x02 ≤ op.toNat ∧ op.toNat ≤ 0x0F) ∨ (0x11 ≤ op.toNat ∧ op.toNat ≤ 0x1F) ∨
     (0x23 ≤ op.toNat ∧ op.toNat ≤ 0x2F) ∨ (0x32 ≤ op.toNat ∧ op.toNat ≤ 0x3F) ∨
     (0x43 ≤ op.toNat ∧ op.toNat ≤ 0x4F) ∨ (0x52 ≤ op.toNat ∧ op.toNat ≤ 0x5F) ∨
     (0x63 ≤ op.toNat ∧ op.toNat ≤ 0xFF)) →
    s.moves = .issue (op :: BitVec.ofNat 8 a.length :: a) :: rest →
    step s = .next { s with moves := rest, results := ⟨.errIllegalOp, []⟩ :: s.results }

/-- R252: an operand count outside the set of R73, and an `UNSTUFF_FM` tail that R121 cannot produce, raise
`ERR_OPERAND` and change no other state. -/
def Obligations.RefusedOperandsRaiseErrOperand : Prop :=
  ∀ (s : State) (a : List Byte),
    (a.length ≠ 0 → ∀ i ∈ [Instr.nop a, .reset a, .deframeStart a, .deframeRead a, .deframeAbort a],
      exec i s = .next { s with results := ⟨.errOperand, []⟩ :: s.results }) ∧
    (a.length = 0 → ∀ i ∈ [Instr.cksum a, .decState a, .decBand a],
      exec i s = .next { s with results := ⟨.errOperand, []⟩ :: s.results }) ∧
    (a.length ≠ 2 → ∀ i ∈ [Instr.stuffFm a, .stuffAm a, .frameSetFm a, .frameSetAm a],
      exec i s = .next { s with results := ⟨.errOperand, []⟩ :: s.results }) ∧
    (a.length ≠ 2 → a.length ≠ 3 →
      exec (.unstuffFm a) s = .next { s with results := ⟨.errOperand, []⟩ :: s.results }) ∧
    (a.length < 2 ∨ 252 < a.length →
      exec (.frameCmd a) s = .next { s with results := ⟨.errOperand, []⟩ :: s.results }) ∧
    ((∀ b0 b1 : Byte, (stuffFmBytes b0 b1).1 ≠ a) →
      exec (.unstuffFm a) s = .next { s with results := ⟨.errOperand, []⟩ :: s.results })

/-- R20, R71, R257: every operation that ends returns exactly one result descriptor; one that is not `OK` has no result
bytes and leaves everything else as it was. -/
def Obligations.ErrorsReturnNoBytesAndWriteNoState : Prop :=
  ∀ (i : Instr) (s t : State), exec i s = .next t →
    ∃ r : ResultDesc, t.results = r :: s.results ∧
      (r.status ≠ .ok → r.q = [] ∧ t = { s with results := r :: s.results })

/-- R22: the result of a combinational operation is a function of its operands alone, and the operation neither reads nor
writes any other state. -/
def Obligations.CombinationalResultIsAFunctionOfOperands : Prop :=
  ∀ i : Instr, combinational i = true →
    ∃ r : ResultDesc, ∀ s : State, exec i s = .next { s with results := r :: s.results }

/-- R57: a combinational operation and a deframer step can be made in either order, with the same result and the same
state after both. -/
def Obligations.CombinationalCommutesWithDeframerStep : Prop :=
  ∀ (i : Instr) (depth : Nat) (draw : ChannelDraw) (s t : State), combinational i = true →
    deframeStep depth draw s = .next t →
    ∃ r : ResultDesc, exec i s = .next { s with results := r :: s.results } ∧
      exec i t = .next { t with results := r :: t.results } ∧
      deframeStep depth draw { s with results := r :: s.results } = .next { t with results := r :: t.results }

/-- R32, R243: only `RESET`, `DEFRAME_START` and `DEFRAME_ABORT` write the deframer's fields; every other operation
changes nothing but the results. -/
def Obligations.OnlyThreeOperationsWriteTheDeframer : Prop :=
  ∀ (i : Instr) (s t : State), exec i s = .next t →
    (∀ a, i ≠ .reset a) → (∀ a, i ≠ .deframeStart a) → (∀ a, i ≠ .deframeAbort a) →
    t = { s with results := t.results }

/-- R282: no operation flushes, or otherwise touches, the channel's queue; nor does one write to the channel, or change
the host's sequences or the agents' pending moves; these are the model's own fields (log entries 1, 2 and 19). -/
def Obligations.NoOperationTouchesTheChannel : Prop :=
  ∀ (i : Instr) (s t : State), exec i s = .next t → t.rxq = s.rxq ∧ t.sent = s.sent ∧ t.host = s.host ∧ t.moves = s.moves

/-- R36: a delivery appends one byte to the end of the channel's queue and changes nothing else. -/
def Obligations.DeliveryAppendsOneByte : Prop :=
  ∀ (s : State) (b : Byte) (rest : List Move), s.moves = .deliver b :: rest →
    step s = .next { s with moves := rest, rxq := s.rxq ++ [b] }

/-- R39, R274: the host's write reaches the channel and no state of the block. That a failing write has written some
first bytes is the model's choice (log entry 6). -/
def Obligations.HostWriteLeavesTheBlockAlone : Prop :=
  (∀ (s : State) (bs : List Byte) (rest : List Move), s.moves = .hostWrite bs none :: rest →
    step s = .next { s with moves := rest, sent := s.sent ++ bs }) ∧
  (∀ (s : State) (bs : List Byte) (k : Nat) (rest : List Move), s.moves = .hostWrite bs (some k) :: rest →
    step s = .next { s with moves := rest, sent := s.sent ++ bs.take k })

/-- R250: the status codes. -/
def Obligations.StatusCodesAreThoseOfTheTable : Prop :=
  statusCode .ok = 0x00 ∧ statusCode .pending = 0x01 ∧ statusCode .errIllegalOp = 0x10 ∧
  statusCode .errOperand = 0x11 ∧ statusCode .errShortResponse = 0x12 ∧ statusCode .errBusy = 0x13 ∧
  statusCode .errNoFrame = 0x14 ∧ statusCode .errChannel = 0x20 ∧ statusCode .errOverflow = 0x21 ∧
  ∀ r : ResultDesc, encodeResult r = [statusCode r.status, BitVec.ofNat 8 r.q.length] ++ r.q

/-! ### Control -/

/-- R240: `NOP` returns `OK` and no bytes and writes no state, in every state of the deframer; with operands it raises
`ERR_OPERAND`. -/
def Obligations.NopReturnsOk : Prop :=
  ∀ s : State, exec (.nop []) s = .next { s with results := ⟨.ok, []⟩ :: s.results } ∧
    ∀ a : List Byte, a ≠ [] → exec (.nop a) s = .next { s with results := ⟨.errOperand, []⟩ :: s.results }

/-- R40, R241: `RESET` gives the reset table in every state and does not touch the channel's queue; with operands it
raises `ERR_OPERAND` and changes no other state. -/
def Obligations.ResetGivesTheResetTable : Prop :=
  ∀ s : State,
    exec (.reset []) s = .next { s with dstate := .idle, echoCount := 0, nExpect := 0, payCount := 0, payBuf := [],
                                        derr := .none, results := ⟨.ok, []⟩ :: s.results } ∧
    ∀ a : List Byte, a ≠ [] → exec (.reset a) s = .next { s with results := ⟨.errOperand, []⟩ :: s.results }

/-- R40, R280: the block's state at power-on is the reset table; no payload byte holds a value. That no move is pending, that nothing has
been answered or sent, and that no host sequence is pending, is the model's own (log entries 1, 2 and 19). -/
def Obligations.PowerOnStateIsTheResetTable : Prop :=
  State.reset.dstate = .idle ∧ State.reset.echoCount = 0 ∧ State.reset.nExpect = 0 ∧ State.reset.payCount = 0 ∧
  State.reset.derr = .none ∧ (∀ a, Memory.read State.reset.payBuf a = none) ∧
  State.reset.results = [] ∧ State.reset.sent = [] ∧ State.reset.host = [] ∧ State.reset.moves = []

/-! ### Checksum calculator -/

/-- R100, R101: `CKSUM` returns the 8-bit two's-complement negation of the 8-bit sum of its operand bytes; the empty list
is refused. -/
def Obligations.CksumReturnsTheNegatedSum : Prop :=
  (∀ (s : State) (p : List Byte), p ≠ [] → ∃ c : Byte,
    c.toNat = (256 - (p.map BitVec.toNat).sum % 256) % 256 ∧
    exec (.cksum p) s = .next { s with results := ⟨.ok, [c]⟩ :: s.results }) ∧
  (∀ s : State, exec (.cksum []) s = .next { s with results := ⟨.errOperand, []⟩ :: s.results })

/-- R102: the bytes of a non-empty list and its checksum sum to 0 modulo 256. -/
def Obligations.ChecksumMakesTheSumZero : Prop :=
  ∀ p : List Byte, p ≠ [] → ((p.map BitVec.toNat).sum + (checksum p).toNat) % 256 = 0

/-- R103: the checksum of a non-empty list with its checksum appended is 0, and a checksum does not depend on the order
of the bytes. -/
def Obligations.ChecksumOfChecksummedListIsZero : Prop :=
  (∀ p : List Byte, p ≠ [] → checksum (p ++ [checksum p]) = 0) ∧
  (∀ p q : List Byte, p.Perm q → checksum p = checksum q)

/-! ### Byte stuffer -/

/-- R121: the four rows of the FM stuffing table, `b1` never inspected, and the refusal of any other operand count. -/
def Obligations.StuffFmFollowsTheTable : Prop :=
  ∀ (s : State) (b0 b1 : Byte),
    (b0 = 94 → exec (.stuffFm [b0, b1]) s = .next { s with results := ⟨.ok, [3, 94, 94, b1, 0]⟩ :: s.results }) ∧
    (b0 = 60 ∨ b0 = 58 ∨ b0 = 56 ∨ b0 = 54 →
      exec (.stuffFm [b0, b1]) s = .next { s with results := ⟨.ok, [2, b0, b1, 1, 94]⟩ :: s.results }) ∧
    (b0 = 2 → exec (.stuffFm [b0, b1]) s = .next { s with results := ⟨.ok, [3, 94, 66, b1, 0]⟩ :: s.results }) ∧
    (b0 ≠ 94 → b0 ≠ 60 → b0 ≠ 58 → b0 ≠ 56 → b0 ≠ 54 → b0 ≠ 2 →
      exec (.stuffFm [b0, b1]) s = .next { s with results := ⟨.ok, [2, b0, b1, 0]⟩ :: s.results }) ∧
    (∀ a : List Byte, a.length ≠ 2 →
      exec (.stuffFm a) s = .next { s with results := ⟨.errOperand, []⟩ :: s.results })

/-- R123: the lengths of the FM tail and trailer. -/
def Obligations.FmTailAndTrailerLengths : Prop :=
  ∀ b0 b1 : Byte,
    ((stuffFmBytes b0 b1).1.length = 3 ↔ b0 = 94 ∨ b0 = 2) ∧
    ((stuffFmBytes b0 b1).1.length = 2 ↔ ¬ (b0 = 94 ∨ b0 = 2)) ∧
    ((stuffFmBytes b0 b1).2.length = 1 ↔ b0 ∈ Const.fmTrailerSet) ∧
    ((stuffFmBytes b0 b1).2.length = 0 ↔ b0 ∉ Const.fmTrailerSet) ∧
    ¬ ((stuffFmBytes b0 b1).1.length = 3 ∧ (stuffFmBytes b0 b1).2.length = 1)

/-- R124, R125: AM stuffing escapes `b1 = 2` and nothing else, and applies no bias otherwise. -/
def Obligations.StuffAmEscapesOnlyHighByteTwo : Prop :=
  ∀ (s : State) (b0 b1 : Byte),
    (b1 = 2 → exec (.stuffAm [b0, b1]) s = .next { s with results := ⟨.ok, [3, b0, 94, 66]⟩ :: s.results }) ∧
    (b1 ≠ 2 → exec (.stuffAm [b0, b1]) s = .next { s with results := ⟨.ok, [2, b0, b1]⟩ :: s.results }) ∧
    (∀ a : List Byte, a.length ≠ 2 →
      exec (.stuffAm a) s = .next { s with results := ⟨.errOperand, []⟩ :: s.results })

/-- R127, R252, D16: the three tails `UNSTUFF_FM` accepts, and the refusal of every other, `[2, b1]` among them, which R127's
third pseudocode line alone would take and R121 cannot produce (log entry 8). -/
def Obligations.UnstuffFmAcceptsExactlyThreeTails : Prop :=
  ∀ s : State,
    (∀ b1 : Byte, exec (.unstuffFm [94, 94, b1]) s = .next { s with results := ⟨.ok, [94, b1]⟩ :: s.results }) ∧
    (∀ b1 : Byte, exec (.unstuffFm [94, 66, b1]) s = .next { s with results := ⟨.ok, [2, b1]⟩ :: s.results }) ∧
    (∀ b0 b1 : Byte, b0 ≠ 94 → b0 ≠ 2 →
      exec (.unstuffFm [b0, b1]) s = .next { s with results := ⟨.ok, [b0, b1]⟩ :: s.results }) ∧
    (∀ t : List Byte, (∀ b1, t ≠ [94, 94, b1]) → (∀ b1, t ≠ [94, 66, b1]) →
      (∀ b0 b1, b0 ≠ 94 → b0 ≠ 2 → t ≠ [b0, b1]) →
      exec (.unstuffFm t) s = .next { s with results := ⟨.errOperand, []⟩ :: s.results })

/-- R128: unstuffing inverts FM stuffing on every pair of bytes, stuffing inverts unstuffing on every accepted tail, and FM
stuffing is injective. -/
def Obligations.FmStuffingRoundTrips : Prop :=
  (∀ (s : State) (b0 b1 : Byte), exec (.unstuffFm (stuffFmBytes b0 b1).1) s =
    .next { s with results := ⟨.ok, [b0, b1]⟩ :: s.results }) ∧
  (∀ (s : State) (t : List Byte) (b0 b1 : Byte), exec (.unstuffFm t) s =
    .next { s with results := ⟨.ok, [b0, b1]⟩ :: s.results } →
    (stuffFmBytes b0 b1).1 = t) ∧
  (∀ b0 b1 c0 c1 : Byte, (stuffFmBytes b0 b1).1 = (stuffFmBytes c0 c1).1 → b0 = c0 ∧ b1 = c1)

/-! ### Frequency codec -/

/-- R142, R143: splitting and joining a raw value undo each other. -/
def Obligations.SplitAndJoinRoundTrip : Prop :=
  (∀ b0 b1 : Byte, (join16 b0 b1).toNat = b0.toNat + 256 * b1.toNat) ∧
  (∀ b0 b1 : Byte, split16 (join16 b0 b1) = (b0, b1)) ∧
  (∀ v : Word16, join16 (split16 v).1 (split16 v).2 = v)

/-- R146: both branches of the FM decoder, no bias removed, and the short responses. -/
def Obligations.DecFmReadsThePairAtTheMarker : Prop :=
  ∀ (s : State) (r : List Byte),
    (∀ lo hi : Byte, r[3]? = some 94 → r[4]? = some lo → r[5]? = some hi →
      exec (.decFm r) s = .next { s with results := ⟨.ok, [lo, hi]⟩ :: s.results }) ∧
    (∀ lo hi : Byte, lo ≠ 94 → r[3]? = some lo → r[4]? = some hi →
      exec (.decFm r) s = .next { s with results := ⟨.ok, [lo, hi]⟩ :: s.results }) ∧
    (r.length < 4 ∨ (r[3]? = some 94 ∧ r.length < 6) ∨ (r[3]? ≠ some 94 ∧ r.length < 5) →
      exec (.decFm r) s = .next { s with results := ⟨.errShortResponse, []⟩ :: s.results })

/-- R148: both branches of the AM decoder, the bias removed modulo 256 where the rule says so, and the short responses. -/
def Obligations.DecAmRemovesTheBias : Prop :=
  ∀ (s : State) (r : List Byte),
    (∀ lo hi : Byte, r[4]? = some 94 → r[3]? = some lo → r[5]? = some hi →
      exec (.decAm r) s = .next { s with results := ⟨.ok, [lo, hi - 64]⟩ :: s.results }) ∧
    (∀ lo hi : Byte, lo ≠ 94 → r[4]? = some lo → r[6]? = some hi →
      exec (.decAm r) s = .next { s with results := ⟨.ok, [lo - 64, hi - 64]⟩ :: s.results }) ∧
    (r.length < 5 ∨ (r[4]? = some 94 ∧ r.length < 6) ∨ (r[4]? ≠ some 94 ∧ r.length < 7) →
      exec (.decAm r) s = .next { s with results := ⟨.errShortResponse, []⟩ :: s.results })

/-- R129, R150: on a response laid out as the stuffed command, the AM decoder gives back an escaped value, and the FM
decoder gives 66 for a low byte of 2. -/
def Obligations.DecodersOnStuffedCommands : Prop :=
  (∀ (s : State) (op b0 : Byte), exec (.decAm ([1, op, 44] ++ stuffAmBytes b0 2)) s =
    .next { s with results := ⟨.ok, [b0, 2]⟩ :: s.results }) ∧
  (∀ (s : State) (op b1 : Byte), exec (.decFm ([1, op, 45] ++ (stuffFmBytes 2 b1).1)) s =
    .next { s with results := ⟨.ok, [66, b1]⟩ :: s.results })

/-- R289: a payload of three bytes is too short for both frequency decoders, and for the state decoder at offset 3. -/
def Obligations.ThreeBytePayloadIsTooShort : Prop :=
  ∀ (s : State) (r : List Byte), r.length = 3 →
    ∀ i ∈ [Instr.decFm r, .decAm r, .decState (3 :: r)],
      exec i s = .next { s with results := ⟨.errShortResponse, []⟩ :: s.results }

/-! ### Status decoder -/

/-- R191, R192: `DEC_STATE` maps the byte at the offset to Off, On or Unknown; an unexpected byte is no error; an offset
past the response is. -/
def Obligations.DecStateMapsTheByteAtTheOffset : Prop :=
  ∀ (s : State) (off : Byte) (r : List Byte),
    (∀ b : Byte, r[off.toNat]? = some b → exec (.decState (off :: r)) s =
      .next { s with results := ⟨.ok, [if b = 64 then 0x00 else if b = 65 then 0x01 else 0x02]⟩ :: s.results }) ∧
    (r.length ≤ off.toNat → exec (.decState (off :: r)) s =
      .next { s with results := ⟨.errShortResponse, []⟩ :: s.results }) ∧
    exec (.decState []) s = .next { s with results := ⟨.errOperand, []⟩ :: s.results }

/-- R193, R194: `DEC_BAND` maps the byte at the offset to AM, FM or Unknown. -/
def Obligations.DecBandMapsTheByteAtTheOffset : Prop :=
  ∀ (s : State) (off : Byte) (r : List Byte),
    (∀ b : Byte, r[off.toNat]? = some b → exec (.decBand (off :: r)) s =
      .next { s with results := ⟨.ok, [if b = 64 then 0x00 else if b = 65 then 0x01 else 0x02]⟩ :: s.results }) ∧
    (r.length ≤ off.toNat → exec (.decBand (off :: r)) s =
      .next { s with results := ⟨.errShortResponse, []⟩ :: s.results }) ∧
    exec (.decBand []) s = .next { s with results := ⟨.errOperand, []⟩ :: s.results }

/-! ### Framer -/

/-- R211, R213: `FRAME_CMD` returns `[1, op, p] ++ d ++ [2, checksum]`, nothing stuffed, where the frame fits; else
`ERR_OPERAND`. R213's corner case on the sum is not stated (log entry 13). -/
def Obligations.FrameCmdBuildsTheUnstuffedFrame : Prop :=
  ∀ s : State,
    (∀ (op p : Byte) (d : List Byte), d.length ≤ 250 → exec (.frameCmd (op :: p :: d)) s =
      .next { s with results := ⟨.ok, [1, op, p] ++ d ++ [2, checksum ([1, op, p] ++ d)]⟩ :: s.results }) ∧
    (∀ a : List Byte, a.length < 2 ∨ 252 < a.length → exec (.frameCmd a) s =
      .next { s with results := ⟨.errOperand, []⟩ :: s.results })

/-- R211, R215: `FRAME_SET_FM` returns the stuffed frame of the FM write, its checksum over the five unstuffed bytes, the
trailer last, for every raw value. -/
def Obligations.FrameSetFmBuildsTheStuffedFrame : Prop :=
  ∀ (s : State) (b0 b1 : Byte),
    exec (.frameSetFm [b0, b1]) s =
      .next { s with results :=
        ⟨.ok, [1, 21, 45] ++ (stuffFmBytes b0 b1).1 ++ [2, checksum [1, 21, 45, b0, b1]] ++ (stuffFmBytes b0 b1).2⟩
          :: s.results } ∧
    ∀ a : List Byte, a.length ≠ 2 →
      exec (.frameSetFm a) s = .next { s with results := ⟨.errOperand, []⟩ :: s.results }

/-- R211, R217: `FRAME_SET_AM` returns the stuffed frame of the AM write, its checksum over the five unstuffed bytes, for
every raw value. -/
def Obligations.FrameSetAmBuildsTheStuffedFrame : Prop :=
  ∀ (s : State) (b0 b1 : Byte),
    exec (.frameSetAm [b0, b1]) s =
      .next { s with results :=
        ⟨.ok, [1, 21, 44] ++ stuffAmBytes b0 b1 ++ [2, checksum [1, 21, 44, b0, b1]]⟩ :: s.results } ∧
    ∀ a : List Byte, a.length ≠ 2 →
      exec (.frameSetAm a) s = .next { s with results := ⟨.errOperand, []⟩ :: s.results }

/-- R218: the bytes of an unstuffed frame other than its delimiter sum to 0 modulo 256; those of a stuffed one need not
(the FM write of raw 9566, 95_test_vectors.md 2.6). -/
def Obligations.UnstuffedFrameSumsToZero : Prop :=
  (∀ (op p : Byte) (d : List Byte),
    (((frame op p d d []).eraseIdx (3 + d.length)).map BitVec.toNat).sum % 256 = 0 ∧
    (frame op p d d [])[3 + d.length]? = some 2) ∧
  (((fmFrame 94 37).eraseIdx 6).map BitVec.toNat).sum % 256 = 94

/-- R219: how every frame ends, and where its delimiter stands. -/
def Obligations.FramesEndInDelimiterAndChecksum : Prop :=
  (∀ (op p : Byte) (d : List Byte), frame op p d d [] = [1, op, p] ++ d ++ [2, checksum ([1, op, p] ++ d)]) ∧
  (∀ b0 b1 : Byte, b0 ∈ Const.fmTrailerSet →
    ∃ x, fmFrame b0 b1 = x ++ [2, checksum [1, 21, 45, b0, b1], 94] ∧ x.length = 3 + (stuffFmBytes b0 b1).1.length) ∧
  (∀ b0 b1 : Byte, b0 ∉ Const.fmTrailerSet →
    ∃ x, fmFrame b0 b1 = x ++ [2, checksum [1, 21, 45, b0, b1]] ∧ x.length = 3 + (stuffFmBytes b0 b1).1.length) ∧
  (∀ b0 b1 : Byte,
    ∃ x, amFrame b0 b1 = x ++ [2, checksum [1, 21, 44, b0, b1]] ∧ x.length = 3 + (stuffAmBytes b0 b1).length)

/-- R105: the checksum byte may equal the delimiter: the FM write of raw 8857. -/
def Obligations.ChecksumMayBeTheDelimiter : Prop :=
  ∀ s : State, exec (.frameSetFm (rawBytes 8857)) s =
    .next { s with results := ⟨.ok, [1, 21, 45, 153, 34, 2, 2]⟩ :: s.results }

/-! ### Wire commands -/

/-- R220, R222, R224, R226, R228, R230: a read command is framed from its logical command, whatever its open data;
with empty data the frame is the one the rule gives. -/
def Obligations.ReadCommandsAreFramed : Prop :=
  ∀ s : State,
    (∀ (p : Byte) (d : List Byte) (i : Instr), d.length ≤ 250 →
      (p, i) ∈ [((21 : Byte), Instr.getPower d), (49, .getBlend d), (47, .getMute d), (43, .getBand d),
                (45, .getFm d), (44, .getAm d)] →
      exec i s = .next { s with results :=
        ⟨.ok, [1, 20, p] ++ d ++ [2, checksum ([1, 20, p] ++ d)]⟩ :: s.results }) ∧
    (∀ (p c : Byte) (i : Instr),
      (p, c, i) ∈ [((21 : Byte), (214 : Byte), Instr.getPower []), (49, 186, .getBlend []), (47, 188, .getMute []),
                   (43, 192, .getBand []), (45, 190, .getFm []), (44, 191, .getAm [])] →
      exec i s = .next { s with results := ⟨.ok, [1, 20, p, 2, c]⟩ :: s.results })

/-- R232, D32: `GET_DEVICE_ID` is framed from `[1, 20, 20]` and its open data. The rule calls this form the spec's own
reading of a point its source leaves open (log entry 10), so no sentence of the source stands behind it. -/
def Obligations.GetDeviceIdIsFramedAsTheSpecReadsIt : Prop :=
  ∀ s : State,
    (∀ d : List Byte, d.length ≤ 250 → exec (.getDeviceId d) s =
      .next { s with results := ⟨.ok, [1, 20, 20] ++ d ++ [2, checksum ([1, 20, 20] ++ d)]⟩ :: s.results }) ∧
    exec (.getDeviceId []) s = .next { s with results := ⟨.ok, [1, 20, 20, 2, 215]⟩ :: s.results }

/-- R221, R223, R225, R227: a state write or a band switch is framed from its logical command, whatever its open bytes. -/
def Obligations.WriteCommandsAreFramed : Prop :=
  ∀ (s : State) (op p : Byte) (d : List Byte) (i : Instr), d.length ≤ 250 →
    (op, p, i) ∈ [((21 : Byte), (21 : Byte), Instr.setPower d), (21, 49, .setBlend d), (21, 47, .setMute d),
                  (22, p, .switchBand p d)] →
    exec i s = .next { s with results := ⟨.ok, [1, op, p] ++ d ++ [2, checksum ([1, op, p] ++ d)]⟩ :: s.results }

/-- A wire command whose open data makes its frame longer than a result descriptor can hold raises `ERR_OPERAND`. The whole
statement is the model's inference (log entry 18): `FRAME_CMD`, which frames these commands, answers so for 251 to 253 data
bytes, no descriptor of `FRAME_CMD` holds more, and 45_framer.md section 2 gives a wire command no status of its own. -/
def Obligations.OversizedWireDataRaisesErrOperand : Prop :=
  ∀ (s : State) (p : Byte) (d : List Byte), 250 < d.length →
    ∀ i ∈ [Instr.getPower d, .setPower d, .getBlend d, .setBlend d, .getMute d, .setMute d, .getBand d,
           .switchBand p d, .getFm d, .getAm d, .getDeviceId d],
      exec i s = .next { s with results := ⟨.errOperand, []⟩ :: s.results }

/-- R229, R231: a frequency write is the frame of `FRAME_SET_FM` or `FRAME_SET_AM` on its raw value, low byte first. -/
def Obligations.FrequencyWritesAreFramed : Prop :=
  ∀ (s : State) (b0 b1 : Byte),
    exec (.setFm (join16 b0 b1)) s =
      .next { s with results :=
        ⟨.ok, [1, 21, 45] ++ (stuffFmBytes b0 b1).1 ++ [2, checksum [1, 21, 45, b0, b1]] ++ (stuffFmBytes b0 b1).2⟩
          :: s.results } ∧
    exec (.setAm (join16 b0 b1)) s =
      .next { s with results :=
        ⟨.ok, [1, 21, 44] ++ stuffAmBytes b0 b1 ++ [2, checksum [1, 21, 44, b0, b1]]⟩ :: s.results }

/-- R77: the pseudo-operations. `GET p`, `SET_FM`, `SET_AM` and `SET_STATE` send their frame and start the read, for every
value of the open data that fits a frame. The host then polls: while the read is in progress the poll is repeated; when the
read is done, the poll ends and the decoder that follows, if any, is issued on exactly the payload that was returned; when
there is an error, the sequence ends with it. That an error ends the sequence is the model's reading (log entry 19), and the
schedule of moves is its own (log entry 1). -/
def Obligations.HostSequencesSendStartPollAndDecode : Prop :=
  (∀ (p : Byte) (d : List Byte) (use : Option PayloadUse), d.length ≤ 250 →
    sendsAndStarts (pseudoGetWith p d use) (frame 20 p d d []) use) ∧
  (∀ b0 b1 : Byte, sendsAndStarts (pseudoSetFm (join16 b0 b1)) (fmFrame b0 b1) none) ∧
  (∀ b0 b1 : Byte, sendsAndStarts (pseudoSetAm (join16 b0 b1)) (amFrame b0 b1) none) ∧
  (∀ (p : Byte) (d : List Byte), d.length ≤ 250 →
    sendsAndStarts (pseudoSetStateWith p d) (frame 21 p d d []) none) ∧
  (∀ (s : State) (use : Option PayloadUse) (seq : List HostAction) (others : List (List HostAction)) (w : Option Nat)
      (ms : List Move), s.host = (.poll use :: seq) :: others → s.moves = .host w :: ms →
    (s.dstate = .awaitDelim ∨ s.dstate = .awaitPayload →
      step s = .next { s with moves := ms, results := ⟨.pending, []⟩ :: s.results }) ∧
    (∀ q : List Byte, s.dstate = .done → q.length = s.payCount.toNat →
      (∀ k < q.length, Memory.read s.payBuf k = q[k]?) →
      step s = .next { s with
        moves := ms, results := ⟨.ok, q⟩ :: s.results,
        host := (match use with
          | none => seq
          | some u => .issue (descriptorBytes u.op (u.before ++ q)) :: seq) :: others }) ∧
    (s.dstate = .error → s.derr = .channel →
      step s = .next { s with moves := ms, results := ⟨.errChannel, []⟩ :: s.results, host := [] :: others }) ∧
    (s.dstate = .error → s.derr = .overflow →
      step s = .next { s with moves := ms, results := ⟨.errOverflow, []⟩ :: s.results, host := [] :: others }) ∧
    (s.dstate = .idle →
      step s = .next { s with moves := ms, results := ⟨.errNoFrame, []⟩ :: s.results, host := [] :: others })) ∧
  (∀ (s t : State) (i : Instr) (r : ResultDesc) (bytes : List Byte) (seq : List HostAction)
      (others : List (List HostAction)) (w : Option Nat) (ms : List Move),
    s.host = (.issue bytes :: seq) :: others → s.moves = .host w :: ms → decode .descriptor bytes = .ok i →
    exec i { s with moves := ms } = .next t → t.results = r :: s.results →
    step s = .next { t with host := (if isErrorStatus r.status then [] else seq) :: others })

/-- R271, R287: on the host's AM grid, 1026 kHz is the only frequency whose low byte is the delimiter. -/
def Obligations.OnlyAm1026HasADelimiterLowByte : Prop :=
  ∀ raw : Word16, validAm raw.toNat → (loByte raw = Const.delim ↔ raw = 1026)

/-! ### Deframer operations -/

/-- R166, R254: `DEFRAME_START` begins a read unless one is in progress, and never touches the channel's queue. -/
def Obligations.DeframeStartBeginsARead : Prop :=
  ∀ s : State,
    (s.dstate ≠ .awaitDelim → s.dstate ≠ .awaitPayload → exec (.deframeStart []) s =
      .next { s with dstate := .awaitDelim, echoCount := 0, nExpect := 0, payCount := 0, payBuf := [], derr := .none,
                     results := ⟨.ok, []⟩ :: s.results }) ∧
    (s.dstate = .awaitDelim ∨ s.dstate = .awaitPayload → exec (.deframeStart []) s =
      .next { s with results := ⟨.errBusy, []⟩ :: s.results }) ∧
    (∀ a : List Byte, a ≠ [] → exec (.deframeStart a) s =
      .next { s with results := ⟨.errOperand, []⟩ :: s.results })

/-- R175, R255, R256: what `DEFRAME_READ` answers in each phase; it writes no state. -/
def Obligations.DeframeReadReportsTheOutcome : Prop :=
  ∀ s : State,
    (s.dstate = .idle → exec (.deframeRead []) s = .next { s with results := ⟨.errNoFrame, []⟩ :: s.results }) ∧
    (s.dstate = .awaitDelim ∨ s.dstate = .awaitPayload →
      exec (.deframeRead []) s = .next { s with results := ⟨.pending, []⟩ :: s.results }) ∧
    (∀ q : List Byte, s.dstate = .done → q.length = s.payCount.toNat →
      (∀ k < q.length, Memory.read s.payBuf k = q[k]?) →
      exec (.deframeRead []) s = .next { s with results := ⟨.ok, q⟩ :: s.results }) ∧
    (s.dstate = .error → s.derr = .channel →
      exec (.deframeRead []) s = .next { s with results := ⟨.errChannel, []⟩ :: s.results }) ∧
    (s.dstate = .error → s.derr = .overflow →
      exec (.deframeRead []) s = .next { s with results := ⟨.errOverflow, []⟩ :: s.results }) ∧
    (∀ a : List Byte, a ≠ [] →
      exec (.deframeRead a) s = .next { s with results := ⟨.errOperand, []⟩ :: s.results })

/-- R173: `DEFRAME_ABORT` cancels the read in every phase and does not touch the channel's queue. -/
def Obligations.DeframeAbortCancelsTheRead : Prop :=
  ∀ s : State,
    exec (.deframeAbort []) s =
      .next { s with dstate := .idle, echoCount := 0, nExpect := 0, payCount := 0, payBuf := [], derr := .none,
                     results := ⟨.ok, []⟩ :: s.results } ∧
    ∀ a : List Byte, a ≠ [] → exec (.deframeAbort a) s =
      .next { s with results := ⟨.errOperand, []⟩ :: s.results }

/-! ### Deframer steps -/

/-- R167: an echo byte is counted, and its value not kept; with `BUF_DEPTH` bytes counted, it ends the read in
`ERR_OVERFLOW`. -/
def Obligations.EchoByteIsCounted : Prop :=
  ∀ (s : State) (b : Byte) (q : List Byte) (flushFails : Bool) (rest : List Move),
    s.dstate = .awaitDelim → s.rxq = b :: q → b ≠ 0x02 → s.moves = .deframe ⟨false, flushFails⟩ :: rest →
    (s.echoCount.toNat = Config.bufDepth →
      step s = .next { s with moves := rest, rxq := q, dstate := .error, derr := .overflow }) ∧
    (s.echoCount.toNat ≠ Config.bufDepth →
      step s = .next { s with moves := rest, rxq := q, echoCount := s.echoCount + 1 })

/-- R168: the delimiter ends the echo; the flush empties the queue in the same step, or fails and discards nothing. -/
def Obligations.DelimiterEndsTheEcho : Prop :=
  ∀ (s : State) (q : List Byte) (rest : List Move), s.dstate = .awaitDelim → s.rxq = 0x02 :: q →
    (s.moves = .deframe ⟨false, true⟩ :: rest →
      step s = .next { s with moves := rest, rxq := q, dstate := .error, derr := .channel }) ∧
    (s.moves = .deframe ⟨false, false⟩ :: rest → s.echoCount = 0 →
      step s = .next { s with moves := rest, rxq := [], nExpect := s.echoCount, dstate := .done }) ∧
    (s.moves = .deframe ⟨false, false⟩ :: rest → s.echoCount ≠ 0 →
      step s = .next { s with moves := rest, rxq := [], nExpect := s.echoCount, dstate := .awaitPayload })

/-- R169, R170: a payload byte is stored at `pay_count`, whatever its value; the last expected one completes the read;
every other byte of the buffer reads as before. -/
def Obligations.PayloadByteIsStored : Prop :=
  ∀ (s : State) (b : Byte) (q : List Byte) (flushFails : Bool) (rest : List Move),
    s.dstate = .awaitPayload → s.rxq = b :: q → s.moves = .deframe ⟨false, flushFails⟩ :: rest →
    s.payCount.toNat < s.nExpect.toNat → s.nExpect.toNat ≤ Config.bufDepth →
    ∃ m : Memory, step s = .next { s with
        moves := rest, rxq := q, payBuf := m, payCount := s.payCount + 1,
        dstate := if s.payCount + 1 = s.nExpect then .done else .awaitPayload } ∧
      (∀ k : Nat, Memory.read m k = if k = s.payCount.toNat then some b else Memory.read s.payBuf k) ∧
      (Memory.wf s.payBuf = true → Memory.wf m = true)

/-- R171, R258: a failing read ends the read in `ERR_CHANNEL` before any byte is taken; the counters and the buffer keep
their values, and `DEFRAME_READ` then returns the error and none of them. -/
def Obligations.FailingReadEndsInErrChannel : Prop :=
  ∀ (s : State) (flushFails : Bool) (rest : List Move),
    s.dstate = .awaitDelim ∨ s.dstate = .awaitPayload → s.moves = .deframe ⟨true, flushFails⟩ :: rest →
    step s = .next { s with moves := rest, dstate := .error, derr := .channel } ∧
    exec (.deframeRead []) { s with moves := rest, dstate := .error, derr := .channel } =
      .next { s with moves := rest, dstate := .error, derr := .channel, results := ⟨.errChannel, []⟩ :: s.results }

/-- R172: in `IDLE`, `DONE` and `ERROR`, and while the queue is empty and no failure is drawn, the deframer has no step:
nothing changes but that the move is taken (log entry 14). -/
def Obligations.DeframerHasNoStepWhenBlocked : Prop :=
  ∀ (s : State) (draw : ChannelDraw) (rest : List Move), s.moves = .deframe draw :: rest →
    (s.dstate = .idle ∨ s.dstate = .done ∨ s.dstate = .error ∨ (s.rxq = [] ∧ draw.readFails = false)) →
    step s = .next { s with moves := rest }

/-- R170, R179, R256: a read that has ended stays ended, takes no byte and keeps every deframer field, whatever moves
follow, until the host starts, aborts or resets. -/
def Obligations.EndedReadStaysUntilTheHostActs : Prop :=
  ∀ (k : Nat) (s t : State), s.dstate = .done ∨ s.dstate = .error →
    noRestartIn k s = true → runSteps k s = .next t →
    t.dstate = s.dstate ∧ t.derr = s.derr ∧ t.echoCount = s.echoCount ∧ t.nExpect = s.nExpect ∧
    t.payCount = s.payCount ∧ t.payBuf = s.payBuf ∧ ∃ d : List Byte, t.rxq = s.rxq ++ d

/-- R160, R178: a read completes. From the state `DEFRAME_START` leaves, if the channel's queue holds the echo, the
delimiter and any further bytes, the echo is no longer than the buffer, and then as many payload bytes arrive as the echo
had, one for each step, the read is `DONE` and `DEFRAME_READ` returns exactly those bytes. -/
def Obligations.TwoPhaseReadReturnsThePayload : Prop :=
  ∀ (s : State) (echo late pay : List Byte) (rest : List Move),
    s.dstate = .awaitDelim → s.echoCount = 0 → s.nExpect = 0 → s.payCount = 0 → s.payBuf = [] → s.derr = .none →
    (∀ b ∈ echo, b ≠ 0x02) → echo.length ≤ Config.bufDepth → pay.length = echo.length →
    s.rxq = echo ++ [0x02] ++ late →
    s.moves = List.replicate (echo.length + 1) (.deframe ⟨false, false⟩) ++
      pay.flatMap (fun b => [.deliver b, .deframe ⟨false, false⟩]) ++ rest →
    ∃ t : State, runSteps (echo.length + 1 + 2 * pay.length) s = .next t ∧
      t.dstate = .done ∧ t.echoCount.toNat = echo.length ∧ t.nExpect.toNat = echo.length ∧
      t.payCount.toNat = echo.length ∧ t.derr = .none ∧ t.rxq = [] ∧ t.moves = rest ∧
      t.sent = s.sent ∧ t.results = s.results ∧
      exec (.deframeRead []) t = .next { t with results := ⟨.ok, pay⟩ :: t.results }

/-- R178: under every interleaving. From the state `DEFRAME_START` leaves, after any moves of any agents that do not
restart the deframer, if the read is `DONE` then the bytes it took are the echo, none of them the delimiter, then the
delimiter, then as many bytes as the echo had, and `DEFRAME_READ` returns exactly these last. -/
def Obligations.DoneReadReturnsTheBytesAfterTheDelimiter : Prop :=
  ∀ (k : Nat) (s t : State),
    s.dstate = .awaitDelim → s.echoCount = 0 → s.nExpect = 0 → s.payCount = 0 → s.payBuf = [] → s.derr = .none →
    noRestartIn k s = true → runSteps k s = .next t → t.dstate = .done →
    ∃ echo pay : List Byte, takenInSteps k s = echo ++ [0x02] ++ pay ∧ (∀ b ∈ echo, b ≠ 0x02) ∧
      pay.length = echo.length ∧ exec (.deframeRead []) t = .next { t with results := ⟨.ok, pay⟩ :: t.results }

/-! ### The invariant -/

/-- The reset state is sound (R40). -/
def Obligations.ResetStateIsSound : Prop := SoundState State.reset

/-- Every step of every agent keeps the invariant: the payload buffer holds exactly the bytes of the current read, the
counts stay in `0..BUF_DEPTH`, the phases keep their relations, and every result descriptor fits its format (R32, R33,
R71, R161, R169, R257). -/
def Obligations.EveryStepKeepsTheInvariant : Prop :=
  ∀ s t : State, SoundState s → step s = .next t → SoundState t

/-- R33, R51, R169: in a sound state no step faults: no payload byte is stored outside the buffer, and no byte that holds
no value is read. -/
def Obligations.SoundStatesNeverFault : Prop :=
  ∀ s : State, SoundState s → noFault (step s)

/-- R33, R51, R280: no run from power-on faults, whatever requests, host sequences, deliveries and failures the agents
make. That their moves and sequences are pending data is the model's choice (log entries 1 and 19). -/
def Obligations.RunsFromPowerOnNeverFault : Prop :=
  ∀ (hs : List (List HostAction)) (ms : List Move) (k : Nat),
    noFault (runSteps k { State.reset with host := hs, moves := ms })

/-! ### Encoding -/

/-- R70, R73, R81, R85: the bytes of every well-formed instruction decode to it, in its format. -/
def Obligations.DecodeInvertsEncode : Prop :=
  ∀ i : Instr, i.wf = true → decode i.format (encode i) = .ok i

/-- R70, R75, R81: bytes that decode to an instruction are its encoding, so no two byte sequences of a format stand for
one instruction, and what is decoded is well-formed. -/
def Obligations.EncodeInvertsDecode : Prop :=
  ∀ (f : Format) (bs : List Byte) (i : Instr), decode f bs = .ok i →
    encode i = bs ∧ i.format = f ∧ i.wf = true
end

