-- ==== Sys2Proof/Laws/Memory.lean ====
section
/-! SUPPORT. The byte store: read after write, and the canonical form. -/

namespace Sys2Proof.Machine

@[simp] theorem Memory.read_nil (a : Nat) : Memory.read [] a = none := rfl

@[simp] theorem Memory.wf_nil : Memory.wf [] = true := rfl

theorem Memory.read_write (m : Memory) (a c : Nat) (b : Byte) :
    Memory.read (Memory.write m a b) c = if c = a then some b else Memory.read m c := by
  induction m with
  | nil => rfl
  | cons p m ih =>
    obtain ⟨i, v⟩ := p
    unfold Memory.write
    by_cases h1 : a < i
    · simp only [h1, if_true, Memory.read]
    · by_cases h2 : a = i
      · subst h2
        by_cases h3 : c = a <;> simp [Memory.read, h3]
      · simp only [h1, h2, if_false, Memory.read, ih]
        by_cases h3 : c = i
        · subst h3; simp [Ne.symm h2]
        · simp [h3]

@[simp] theorem Memory.read_write_same (m : Memory) (a : Nat) (b : Byte) :
    Memory.read (Memory.write m a b) a = some b := by simp [Memory.read_write]

theorem Memory.read_write_other (m : Memory) {a c : Nat} (b : Byte) (h : c ≠ a) :
    Memory.read (Memory.write m a b) c = Memory.read m c := by simp [Memory.read_write, h]

/-- The canonical form is that the indices rise strictly. -/
theorem Memory.wf_iff_pairwise (m : Memory) :
    Memory.wf m = true ↔ (m.map Prod.fst).Pairwise (· < ·) := by
  induction m with
  | nil => simp
  | cons p m ih =>
    obtain ⟨i, v⟩ := p
    cases m with
    | nil => simp [Memory.wf]
    | cons q m =>
      obtain ⟨j, w⟩ := q
      rw [Memory.wf, Bool.and_eq_true, decide_eq_true_iff, ih]
      simp only [List.map_cons, List.pairwise_cons, List.mem_cons, forall_eq_or_imp]
      constructor
      · rintro ⟨hij, hj, hm⟩
        exact ⟨⟨hij, fun a ha => hij.trans (hj a ha)⟩, hj, hm⟩
      · rintro ⟨⟨hij, -⟩, hj, hm⟩
        exact ⟨hij, hj, hm⟩

theorem Memory.mem_keys_write (m : Memory) (a : Nat) (b : Byte) (k : Nat)
    (h : k ∈ (Memory.write m a b).map Prod.fst) : k = a ∨ k ∈ m.map Prod.fst := by
  induction m with
  | nil => simpa [Memory.write] using h
  | cons p m ih =>
    obtain ⟨i, v⟩ := p
    unfold Memory.write at h
    split at h
    · simpa using h
    · split at h
      · next e => subst e; simp only [List.map_cons, List.mem_cons] at h ⊢; tauto
      · simp only [List.map_cons, List.mem_cons] at h ⊢
        rcases h with h | h
        · exact Or.inr (Or.inl h)
        · rcases ih h with h | h <;> simp [h]

/-- A write keeps the canonical form. -/
theorem Memory.write_keeps_wf (m : Memory) (a : Nat) (b : Byte) (h : Memory.wf m = true) :
    Memory.wf (Memory.write m a b) = true := by
  rw [Memory.wf_iff_pairwise] at h ⊢
  induction m with
  | nil => simp [Memory.write]
  | cons p m ih =>
    obtain ⟨i, v⟩ := p
    simp only [List.map_cons, List.pairwise_cons] at h
    unfold Memory.write
    split
    · next hai =>
      simp only [List.map_cons, List.pairwise_cons, List.mem_cons, forall_eq_or_imp]
      exact ⟨⟨hai, fun k hk => hai.trans (h.1 k hk)⟩, h⟩
    · split
      · next e => subst e; simpa using h
      · next h1 h2 =>
        simp only [List.map_cons, List.pairwise_cons]
        refine ⟨fun k hk => ?_, ih h.2⟩
        rcases Memory.mem_keys_write m a b k hk with rfl | hk
        · omega
        · exact h.1 k hk

/-- A store whose indices are all below `a` gets its write at the end. -/
theorem Memory.write_above (m : Memory) (a : Nat) (b : Byte) (h : ∀ k ∈ m.map Prod.fst, k < a) :
    Memory.write m a b = m ++ [(a, b)] := by
  induction m with
  | nil => rfl
  | cons p m ih =>
    obtain ⟨i, v⟩ := p
    have hi : i < a := h i (by simp)
    have hn : ¬ a < i := by omega
    have he : ¬ a = i := by omega
    unfold Memory.write
    rw [if_neg hn, if_neg he, ih (fun k hk => h k (List.mem_cons_of_mem _ hk))]
    rfl

/-- A store whose indices are `i, i + 1, …` holds its bytes in order. -/
theorem Memory.read_of_keys_range' (m : Memory) (i : Nat) (h : m.map Prod.fst = List.range' i m.length) (k : Nat) :
    Memory.read m (i + k) = (m.map Prod.snd)[k]? := by
  induction m generalizing i k with
  | nil => rfl
  | cons p m ih =>
    obtain ⟨j, v⟩ := p
    simp only [List.map_cons, List.length_cons, List.range'_succ, List.cons.injEq] at h
    obtain ⟨rfl, h⟩ := h
    cases k with
    | zero => simp [Memory.read]
    | succ k =>
      have := ih (j + 1) h k
      simp only [Memory.read, List.map_cons, List.getElem?_cons_succ, ← this]
      rw [if_neg (by omega)]
      congr 1
      omega

/-- What reading a range answers: the bytes, each where it stands. -/
theorem Memory.readRange_eq_some (m : Memory) (n i : Nat) (q : List Byte) :
    Memory.readRange m i n = some q ↔ q.length = n ∧ ∀ k < n, Memory.read m (i + k) = q[k]? := by
  induction n generalizing i q with
  | zero =>
    simp only [Memory.readRange, Option.some.injEq, List.length_eq_zero_iff]
    exact ⟨fun h => ⟨h.symm, fun k hk => absurd hk (by omega)⟩, fun h => h.1.symm⟩
  | succ n ih =>
    simp only [Memory.readRange]
    cases hr : Memory.read m i with
    | none =>
      simp only [reduceCtorEq, false_iff, not_and]
      intro hl h
      have h0 := h 0 (by omega)
      rw [Nat.add_zero, hr] at h0
      have : q[0]? ≠ none := by simp [hl]
      exact this h0.symm
    | some b =>
      simp only [Option.map_eq_some_iff]
      constructor
      · rintro ⟨q', hq', rfl⟩
        obtain ⟨hl, hk⟩ := (ih (i + 1) q').1 hq'
        refine ⟨by simp [hl], fun k hkn => ?_⟩
        cases k with
        | zero => simpa using hr
        | succ k =>
          have := hk k (by omega)
          rw [List.getElem?_cons_succ, ← this]
          congr 1
          omega
      · rintro ⟨hl, hk⟩
        cases q with
        | nil => simp at hl
        | cons c q' =>
          have h0 := hk 0 (by omega)
          rw [Nat.add_zero, hr] at h0
          simp only [List.getElem?_cons_zero, Option.some.injEq] at h0
          subst h0
          refine ⟨q', (ih (i + 1) q').2 ⟨by simpa using hl, fun k hkn => ?_⟩, rfl⟩
          have := hk (k + 1) (by omega)
          rw [List.getElem?_cons_succ] at this
          rw [← this]
          congr 1
          omega

end Sys2Proof.Machine
end

