-- ==== Sys2Proof/Laws/Operands.lean ====
section
/-! SUPPORT. Operand forms and the checksum: splitting and joining agree, and what the wrapping sum is. -/

namespace Sys2Proof.Machine

@[simp] theorem loByte_join16 (b0 b1 : Byte) : loByte (join16 b0 b1) = b0 := by
  unfold loByte join16
  ext i hi
  simp only [BitVec.getElem_extractLsb', BitVec.getLsbD_or, BitVec.getLsbD_setWidth, BitVec.getLsbD_shiftLeft]
  simp [hi, BitVec.getLsbD_eq_getElem, show i < 16 by omega]

@[simp] theorem hiByte_join16 (b0 b1 : Byte) : hiByte (join16 b0 b1) = b1 := by
  unfold hiByte join16
  ext i hi
  simp only [BitVec.getElem_extractLsb', BitVec.getLsbD_or, BitVec.getLsbD_setWidth, BitVec.getLsbD_shiftLeft]
  simp [hi, BitVec.getLsbD_eq_getElem, show 8 + i < 16 by omega, show i < 16 by omega]

@[simp] theorem join16_split (raw : Word16) : join16 (loByte raw) (hiByte raw) = raw := by
  unfold loByte hiByte join16
  ext i hi
  simp only [BitVec.getElem_or, BitVec.getElem_setWidth, BitVec.getElem_shiftLeft, BitVec.getLsbD_extractLsb']
  by_cases h : i < 8
  · simp [h, BitVec.getLsbD_eq_getElem hi]
  · simp [h, show i - 8 < 8 by omega, show 8 + (i - 8) = i by omega, BitVec.getLsbD_eq_getElem hi]

@[simp] theorem rawBytes_join16 (b0 b1 : Byte) : rawBytes (join16 b0 b1) = [b0, b1] := by
  simp [rawBytes]

@[simp] theorem rawBytes_length (raw : Word16) : (rawBytes raw).length = 2 := rfl

theorem byteAt_of_some {r : List Byte} {i : Nat} {b : Byte} (h : r[i]? = some b) : byteAt r i = .ok b := by
  simp [byteAt, h]

theorem byteAt_of_short {r : List Byte} {i : Nat} (h : r.length ≤ i) :
    byteAt r i = .error .errShortResponse := by
  simp [byteAt, List.getElem?_eq_none h]

theorem byteAt_eq_error {r : List Byte} {i : Nat} {e : Status} (h : byteAt r i = .error e) :
    e = .errShortResponse ∧ r.length ≤ i := by
  unfold byteAt at h
  split at h
  · cases h
  · next hn => cases h; exact ⟨rfl, by simpa using hn⟩

theorem noOperands_iff (a : List Byte) : noOperands a = true ↔ a = [] := by
  simp [noOperands]

@[simp] theorem noOperands_nil : noOperands [] = true := rfl

@[simp] theorem noOperands_cons (b : Byte) (a : List Byte) : noOperands (b :: a) = false := by
  simp [noOperands]

theorem noOperands_of_ne {a : List Byte} (h : a ≠ []) : noOperands a = false := by
  cases a with
  | nil => exact absurd rfl h
  | cons b a => simp

/-! ### The checksum -/

theorem byteSum_foldl (p : List Byte) (z : Byte) : p.foldl (fun sum b => sum + b) z = z + byteSum p := by
  unfold byteSum
  induction p generalizing z with
  | nil => simp
  | cons b p ih => simp only [List.foldl_cons]; rw [ih, ih (0 + b)]; simp [BitVec.add_assoc]

@[simp] theorem byteSum_nil : byteSum [] = 0 := rfl

@[simp] theorem byteSum_cons (b : Byte) (p : List Byte) : byteSum (b :: p) = b + byteSum p := by
  show p.foldl (fun sum b => sum + b) (0 + b) = _
  rw [byteSum_foldl]; simp

@[simp] theorem byteSum_append (p q : List Byte) : byteSum (p ++ q) = byteSum p + byteSum q := by
  induction p with
  | nil => simp
  | cons b p ih => simp [ih, BitVec.add_assoc]

/-- The wrapping sum is the exact sum modulo 256. -/
theorem byteSum_toNat (p : List Byte) : (byteSum p).toNat = (p.map BitVec.toNat).sum % 256 := by
  induction p with
  | nil => rfl
  | cons b p ih => simp [BitVec.toNat_add, ih, Nat.add_mod]

/-- The checksum is the negated wrapping sum. -/
theorem checksum_eq_neg (p : List Byte) : checksum p = - byteSum p := by
  unfold checksum; exact (BitVec.neg_eq_not_add _).symm

theorem checksum_toNat (p : List Byte) :
    (checksum p).toNat = (256 - (p.map BitVec.toNat).sum % 256) % 256 := by
  rw [checksum_eq_neg, BitVec.toNat_neg, byteSum_toNat]

end Sys2Proof.Machine
end

