-- ==== Sys2Proof/Laws/State.lean ====
section
/-! SUPPORT. Every field after every named update of the state, true by rfl. -/

namespace Sys2Proof.Machine

@[simp] theorem State.addResult_dstate (s : State) (r : ResultDesc) : (s.addResult r).dstate = s.dstate := rfl
@[simp] theorem State.addResult_echoCount (s : State) (r : ResultDesc) : (s.addResult r).echoCount = s.echoCount := rfl
@[simp] theorem State.addResult_nExpect (s : State) (r : ResultDesc) : (s.addResult r).nExpect = s.nExpect := rfl
@[simp] theorem State.addResult_payCount (s : State) (r : ResultDesc) : (s.addResult r).payCount = s.payCount := rfl
@[simp] theorem State.addResult_payBuf (s : State) (r : ResultDesc) : (s.addResult r).payBuf = s.payBuf := rfl
@[simp] theorem State.addResult_derr (s : State) (r : ResultDesc) : (s.addResult r).derr = s.derr := rfl
@[simp] theorem State.addResult_rxq (s : State) (r : ResultDesc) : (s.addResult r).rxq = s.rxq := rfl
@[simp] theorem State.addResult_sent (s : State) (r : ResultDesc) : (s.addResult r).sent = s.sent := rfl
@[simp] theorem State.addResult_results (s : State) (r : ResultDesc) : (s.addResult r).results = r :: s.results := rfl
@[simp] theorem State.addResult_host (s : State) (r : ResultDesc) : (s.addResult r).host = s.host := rfl
@[simp] theorem State.addResult_moves (s : State) (r : ResultDesc) : (s.addResult r).moves = s.moves := rfl

@[simp] theorem State.setRxq_dstate (s : State) (q : List Byte) : (s.setRxq q).dstate = s.dstate := rfl
@[simp] theorem State.setRxq_echoCount (s : State) (q : List Byte) : (s.setRxq q).echoCount = s.echoCount := rfl
@[simp] theorem State.setRxq_nExpect (s : State) (q : List Byte) : (s.setRxq q).nExpect = s.nExpect := rfl
@[simp] theorem State.setRxq_payCount (s : State) (q : List Byte) : (s.setRxq q).payCount = s.payCount := rfl
@[simp] theorem State.setRxq_payBuf (s : State) (q : List Byte) : (s.setRxq q).payBuf = s.payBuf := rfl
@[simp] theorem State.setRxq_derr (s : State) (q : List Byte) : (s.setRxq q).derr = s.derr := rfl
@[simp] theorem State.setRxq_rxq (s : State) (q : List Byte) : (s.setRxq q).rxq = q := rfl
@[simp] theorem State.setRxq_sent (s : State) (q : List Byte) : (s.setRxq q).sent = s.sent := rfl
@[simp] theorem State.setRxq_results (s : State) (q : List Byte) : (s.setRxq q).results = s.results := rfl
@[simp] theorem State.setRxq_host (s : State) (q : List Byte) : (s.setRxq q).host = s.host := rfl
@[simp] theorem State.setRxq_moves (s : State) (q : List Byte) : (s.setRxq q).moves = s.moves := rfl

@[simp] theorem State.setMoves_dstate (s : State) (ms : List Move) : (s.setMoves ms).dstate = s.dstate := rfl
@[simp] theorem State.setMoves_echoCount (s : State) (ms : List Move) : (s.setMoves ms).echoCount = s.echoCount := rfl
@[simp] theorem State.setMoves_nExpect (s : State) (ms : List Move) : (s.setMoves ms).nExpect = s.nExpect := rfl
@[simp] theorem State.setMoves_payCount (s : State) (ms : List Move) : (s.setMoves ms).payCount = s.payCount := rfl
@[simp] theorem State.setMoves_payBuf (s : State) (ms : List Move) : (s.setMoves ms).payBuf = s.payBuf := rfl
@[simp] theorem State.setMoves_derr (s : State) (ms : List Move) : (s.setMoves ms).derr = s.derr := rfl
@[simp] theorem State.setMoves_rxq (s : State) (ms : List Move) : (s.setMoves ms).rxq = s.rxq := rfl
@[simp] theorem State.setMoves_sent (s : State) (ms : List Move) : (s.setMoves ms).sent = s.sent := rfl
@[simp] theorem State.setMoves_results (s : State) (ms : List Move) : (s.setMoves ms).results = s.results := rfl
@[simp] theorem State.setMoves_host (s : State) (ms : List Move) : (s.setMoves ms).host = s.host := rfl
@[simp] theorem State.setMoves_moves (s : State) (ms : List Move) : (s.setMoves ms).moves = ms := rfl

@[simp] theorem State.setHost_dstate (s : State) (hs : List (List HostAction)) : (s.setHost hs).dstate = s.dstate := rfl
@[simp] theorem State.setHost_echoCount (s : State) (hs : List (List HostAction)) : (s.setHost hs).echoCount = s.echoCount := rfl
@[simp] theorem State.setHost_nExpect (s : State) (hs : List (List HostAction)) : (s.setHost hs).nExpect = s.nExpect := rfl
@[simp] theorem State.setHost_payCount (s : State) (hs : List (List HostAction)) : (s.setHost hs).payCount = s.payCount := rfl
@[simp] theorem State.setHost_payBuf (s : State) (hs : List (List HostAction)) : (s.setHost hs).payBuf = s.payBuf := rfl
@[simp] theorem State.setHost_derr (s : State) (hs : List (List HostAction)) : (s.setHost hs).derr = s.derr := rfl
@[simp] theorem State.setHost_rxq (s : State) (hs : List (List HostAction)) : (s.setHost hs).rxq = s.rxq := rfl
@[simp] theorem State.setHost_sent (s : State) (hs : List (List HostAction)) : (s.setHost hs).sent = s.sent := rfl
@[simp] theorem State.setHost_results (s : State) (hs : List (List HostAction)) : (s.setHost hs).results = s.results := rfl
@[simp] theorem State.setHost_host (s : State) (hs : List (List HostAction)) : (s.setHost hs).host = hs := rfl
@[simp] theorem State.setHost_moves (s : State) (hs : List (List HostAction)) : (s.setHost hs).moves = s.moves := rfl

@[simp] theorem State.addSent_dstate (s : State) (bs : List Byte) : (s.addSent bs).dstate = s.dstate := rfl
@[simp] theorem State.addSent_echoCount (s : State) (bs : List Byte) : (s.addSent bs).echoCount = s.echoCount := rfl
@[simp] theorem State.addSent_nExpect (s : State) (bs : List Byte) : (s.addSent bs).nExpect = s.nExpect := rfl
@[simp] theorem State.addSent_payCount (s : State) (bs : List Byte) : (s.addSent bs).payCount = s.payCount := rfl
@[simp] theorem State.addSent_payBuf (s : State) (bs : List Byte) : (s.addSent bs).payBuf = s.payBuf := rfl
@[simp] theorem State.addSent_derr (s : State) (bs : List Byte) : (s.addSent bs).derr = s.derr := rfl
@[simp] theorem State.addSent_rxq (s : State) (bs : List Byte) : (s.addSent bs).rxq = s.rxq := rfl
@[simp] theorem State.addSent_sent (s : State) (bs : List Byte) : (s.addSent bs).sent = s.sent ++ bs := rfl
@[simp] theorem State.addSent_results (s : State) (bs : List Byte) : (s.addSent bs).results = s.results := rfl
@[simp] theorem State.addSent_host (s : State) (bs : List Byte) : (s.addSent bs).host = s.host := rfl
@[simp] theorem State.addSent_moves (s : State) (bs : List Byte) : (s.addSent bs).moves = s.moves := rfl

@[simp] theorem State.clearDeframer_dstate (s : State) : (s.clearDeframer).dstate = .idle := rfl
@[simp] theorem State.clearDeframer_echoCount (s : State) : (s.clearDeframer).echoCount = 0 := rfl
@[simp] theorem State.clearDeframer_nExpect (s : State) : (s.clearDeframer).nExpect = 0 := rfl
@[simp] theorem State.clearDeframer_payCount (s : State) : (s.clearDeframer).payCount = 0 := rfl
@[simp] theorem State.clearDeframer_payBuf (s : State) : (s.clearDeframer).payBuf = [] := rfl
@[simp] theorem State.clearDeframer_derr (s : State) : (s.clearDeframer).derr = .none := rfl
@[simp] theorem State.clearDeframer_rxq (s : State) : (s.clearDeframer).rxq = s.rxq := rfl
@[simp] theorem State.clearDeframer_sent (s : State) : (s.clearDeframer).sent = s.sent := rfl
@[simp] theorem State.clearDeframer_results (s : State) : (s.clearDeframer).results = s.results := rfl
@[simp] theorem State.clearDeframer_host (s : State) : (s.clearDeframer).host = s.host := rfl
@[simp] theorem State.clearDeframer_moves (s : State) : (s.clearDeframer).moves = s.moves := rfl

@[simp] theorem State.startRead_dstate (s : State) : (s.startRead).dstate = .awaitDelim := rfl
@[simp] theorem State.startRead_echoCount (s : State) : (s.startRead).echoCount = 0 := rfl
@[simp] theorem State.startRead_nExpect (s : State) : (s.startRead).nExpect = 0 := rfl
@[simp] theorem State.startRead_payCount (s : State) : (s.startRead).payCount = 0 := rfl
@[simp] theorem State.startRead_payBuf (s : State) : (s.startRead).payBuf = [] := rfl
@[simp] theorem State.startRead_derr (s : State) : (s.startRead).derr = .none := rfl
@[simp] theorem State.startRead_rxq (s : State) : (s.startRead).rxq = s.rxq := rfl
@[simp] theorem State.startRead_sent (s : State) : (s.startRead).sent = s.sent := rfl
@[simp] theorem State.startRead_results (s : State) : (s.startRead).results = s.results := rfl
@[simp] theorem State.startRead_host (s : State) : (s.startRead).host = s.host := rfl
@[simp] theorem State.startRead_moves (s : State) : (s.startRead).moves = s.moves := rfl

@[simp] theorem State.failRead_dstate (s : State) (e : DErr) : (s.failRead e).dstate = .error := rfl
@[simp] theorem State.failRead_echoCount (s : State) (e : DErr) : (s.failRead e).echoCount = s.echoCount := rfl
@[simp] theorem State.failRead_nExpect (s : State) (e : DErr) : (s.failRead e).nExpect = s.nExpect := rfl
@[simp] theorem State.failRead_payCount (s : State) (e : DErr) : (s.failRead e).payCount = s.payCount := rfl
@[simp] theorem State.failRead_payBuf (s : State) (e : DErr) : (s.failRead e).payBuf = s.payBuf := rfl
@[simp] theorem State.failRead_derr (s : State) (e : DErr) : (s.failRead e).derr = e := rfl
@[simp] theorem State.failRead_rxq (s : State) (e : DErr) : (s.failRead e).rxq = s.rxq := rfl
@[simp] theorem State.failRead_sent (s : State) (e : DErr) : (s.failRead e).sent = s.sent := rfl
@[simp] theorem State.failRead_results (s : State) (e : DErr) : (s.failRead e).results = s.results := rfl
@[simp] theorem State.failRead_host (s : State) (e : DErr) : (s.failRead e).host = s.host := rfl
@[simp] theorem State.failRead_moves (s : State) (e : DErr) : (s.failRead e).moves = s.moves := rfl

@[simp] theorem State.countEcho_dstate (s : State) : (s.countEcho).dstate = s.dstate := rfl
@[simp] theorem State.countEcho_echoCount (s : State) : (s.countEcho).echoCount = s.echoCount + 1 := rfl
@[simp] theorem State.countEcho_nExpect (s : State) : (s.countEcho).nExpect = s.nExpect := rfl
@[simp] theorem State.countEcho_payCount (s : State) : (s.countEcho).payCount = s.payCount := rfl
@[simp] theorem State.countEcho_payBuf (s : State) : (s.countEcho).payBuf = s.payBuf := rfl
@[simp] theorem State.countEcho_derr (s : State) : (s.countEcho).derr = s.derr := rfl
@[simp] theorem State.countEcho_rxq (s : State) : (s.countEcho).rxq = s.rxq := rfl
@[simp] theorem State.countEcho_sent (s : State) : (s.countEcho).sent = s.sent := rfl
@[simp] theorem State.countEcho_results (s : State) : (s.countEcho).results = s.results := rfl
@[simp] theorem State.countEcho_host (s : State) : (s.countEcho).host = s.host := rfl
@[simp] theorem State.countEcho_moves (s : State) : (s.countEcho).moves = s.moves := rfl

@[simp] theorem State.endEcho_dstate (s : State) : (s.endEcho).dstate = if s.echoCount = 0 then .done else .awaitPayload := rfl
@[simp] theorem State.endEcho_echoCount (s : State) : (s.endEcho).echoCount = s.echoCount := rfl
@[simp] theorem State.endEcho_nExpect (s : State) : (s.endEcho).nExpect = s.echoCount := rfl
@[simp] theorem State.endEcho_payCount (s : State) : (s.endEcho).payCount = s.payCount := rfl
@[simp] theorem State.endEcho_payBuf (s : State) : (s.endEcho).payBuf = s.payBuf := rfl
@[simp] theorem State.endEcho_derr (s : State) : (s.endEcho).derr = s.derr := rfl
@[simp] theorem State.endEcho_rxq (s : State) : (s.endEcho).rxq = s.rxq := rfl
@[simp] theorem State.endEcho_sent (s : State) : (s.endEcho).sent = s.sent := rfl
@[simp] theorem State.endEcho_results (s : State) : (s.endEcho).results = s.results := rfl
@[simp] theorem State.endEcho_host (s : State) : (s.endEcho).host = s.host := rfl
@[simp] theorem State.endEcho_moves (s : State) : (s.endEcho).moves = s.moves := rfl

@[simp] theorem State.storePayload_dstate (s : State) (b : Byte) : (s.storePayload b).dstate = if s.payCount + 1 = s.nExpect then .done else s.dstate := rfl
@[simp] theorem State.storePayload_echoCount (s : State) (b : Byte) : (s.storePayload b).echoCount = s.echoCount := rfl
@[simp] theorem State.storePayload_nExpect (s : State) (b : Byte) : (s.storePayload b).nExpect = s.nExpect := rfl
@[simp] theorem State.storePayload_payCount (s : State) (b : Byte) : (s.storePayload b).payCount = s.payCount + 1 := rfl
@[simp] theorem State.storePayload_payBuf (s : State) (b : Byte) : (s.storePayload b).payBuf = Memory.write s.payBuf s.payCount.toNat b := rfl
@[simp] theorem State.storePayload_derr (s : State) (b : Byte) : (s.storePayload b).derr = s.derr := rfl
@[simp] theorem State.storePayload_rxq (s : State) (b : Byte) : (s.storePayload b).rxq = s.rxq := rfl
@[simp] theorem State.storePayload_sent (s : State) (b : Byte) : (s.storePayload b).sent = s.sent := rfl
@[simp] theorem State.storePayload_results (s : State) (b : Byte) : (s.storePayload b).results = s.results := rfl
@[simp] theorem State.storePayload_host (s : State) (b : Byte) : (s.storePayload b).host = s.host := rfl
@[simp] theorem State.storePayload_moves (s : State) (b : Byte) : (s.storePayload b).moves = s.moves := rfl

end Sys2Proof.Machine
end

