-- ==== Sys2Proof/Laws/Ops.lean ====
section
/-! SUPPORT. For each shared operation, once, everything it can do. -/

namespace Sys2Proof.Machine

/-- Returning bytes and raising an error are the two ways a result ends. -/
theorem answer_ok (q : List Byte) (s : State) : answer (.ok q) s = respond q s := rfl

theorem answer_error (e : Status) (s : State) : answer (.error e) s = raise e s := rfl

theorem resultOf_sound_status (r : Except Status (List Byte)) (h : (resultOf r).status ≠ .ok) :
    (resultOf r).q = [] := by
  cases r with
  | ok q => exact absurd rfl h
  | error e => rfl

/-- Two updates by one result are equal only for equal results. -/
theorem addResult_injective {s : State} {r r' : ResultDesc} (h : s.addResult r = s.addResult r') : r = r' := by
  have := congrArg State.results h
  simpa using this

/-- A combinational operation that ended with `r` was answered with `r`. -/
theorem answer_eq_next {x : Except Status (List Byte)} {s : State} {r : ResultDesc}
    (h : answer x s = .next (s.addResult r)) : resultOf x = r := by
  unfold answer at h
  exact addResult_injective (Host.Outcome.next.inj h)

theorem rxRead_cases (fails : Bool) (s : State) :
    (fails = true ∧ rxRead fails s = .channelFail) ∨
    (fails = false ∧ s.rxq = [] ∧ rxRead fails s = .blocked) ∨
    (fails = false ∧ ∃ b q, s.rxq = b :: q ∧ rxRead fails s = .byte b (s.setRxq q)) := by
  cases fails
  · cases h : s.rxq with
    | nil => simp [rxRead, h]
    | cons b q => simp [rxRead, h]
  · simp [rxRead]

theorem rxFlush_fails (s : State) : rxFlush true s = none := rfl

theorem rxFlush_works (s : State) : rxFlush false s = some (s.setRxq []) := rfl

theorem busy_iff (s : State) : s.busy = true ↔ s.dstate = .awaitDelim ∨ s.dstate = .awaitPayload := by
  unfold State.busy; cases s.dstate <;> simp

/-- Everything one deframer step can do. -/
theorem deframeStep_cases (depth : Nat) (draw : ChannelDraw) (s : State) :
    (s.busy = false ∧ deframeStep depth draw s = .next s) ∨
    (s.busy = true ∧ draw.readFails = true ∧ deframeStep depth draw s = .next (s.failRead .channel)) ∨
    (s.busy = true ∧ draw.readFails = false ∧ s.rxq = [] ∧ deframeStep depth draw s = .next s) ∨
    (∃ b q, draw.readFails = false ∧ s.rxq = b :: q ∧ s.dstate = .awaitDelim ∧ b = Const.delim ∧
      draw.flushFails = true ∧ deframeStep depth draw s = .next ((s.setRxq q).failRead .channel)) ∨
    (∃ b q, draw.readFails = false ∧ s.rxq = b :: q ∧ s.dstate = .awaitDelim ∧ b = Const.delim ∧
      draw.flushFails = false ∧ deframeStep depth draw s = .next (s.setRxq []).endEcho) ∨
    (∃ b q, draw.readFails = false ∧ s.rxq = b :: q ∧ s.dstate = .awaitDelim ∧ b ≠ Const.delim ∧
      s.echoCount.toNat = depth ∧ deframeStep depth draw s = .next ((s.setRxq q).failRead .overflow)) ∨
    (∃ b q, draw.readFails = false ∧ s.rxq = b :: q ∧ s.dstate = .awaitDelim ∧ b ≠ Const.delim ∧
      s.echoCount.toNat ≠ depth ∧ deframeStep depth draw s = .next (s.setRxq q).countEcho) ∨
    (∃ b q, draw.readFails = false ∧ s.rxq = b :: q ∧ s.dstate = .awaitPayload ∧
      s.payCount.toNat < depth ∧ deframeStep depth draw s = .next ((s.setRxq q).storePayload b)) ∨
    (∃ b q, draw.readFails = false ∧ s.rxq = b :: q ∧ s.dstate = .awaitPayload ∧
      ¬ s.payCount.toNat < depth ∧ deframeStep depth draw s = .fault .payIndexOutOfRange) := by
  have hbusy : ∀ d, s.dstate = d → s.busy = (match d with | .awaitDelim => true | .awaitPayload => true | _ => false) := by
    intro d hd; unfold State.busy; rw [hd]; cases d <;> rfl
  cases hd : s.dstate with
  | idle => left; exact ⟨hbusy _ hd, by simp [deframeStep, hd]⟩
  | done => left; exact ⟨hbusy _ hd, by simp [deframeStep, hd]⟩
  | error => left; exact ⟨hbusy _ hd, by simp [deframeStep, hd]⟩
  | awaitDelim =>
    have hb := hbusy _ hd
    rcases rxRead_cases draw.readFails s with ⟨hf, hr⟩ | ⟨hf, hq, hr⟩ | ⟨hf, b, q, hq, hr⟩
    · exact Or.inr (Or.inl ⟨hb, hf, by simp only [deframeStep, hd, hr]⟩)
    · exact Or.inr (Or.inr (Or.inl ⟨hb, hf, hq, by simp only [deframeStep, hd, hr]⟩))
    · right; right; right
      have hstep : deframeStep depth draw s =
          if b = Const.delim then delimiterStep draw.flushFails (s.setRxq q) else echoStep depth (s.setRxq q) := by
        simp only [deframeStep, hd, hr]
      by_cases hbd : b = Const.delim
      · rw [if_pos hbd] at hstep
        cases hff : draw.flushFails
        · right; left
          exact ⟨b, q, hf, hq, rfl, hbd, rfl, by rw [hstep, hff]; rfl⟩
        · left
          exact ⟨b, q, hf, hq, rfl, hbd, rfl, by rw [hstep, hff]; rfl⟩
      · rw [if_neg hbd] at hstep
        right; right
        by_cases he : s.echoCount.toNat = depth
        · left; exact ⟨b, q, hf, hq, rfl, hbd, he, by rw [hstep]; simp [echoStep, he]⟩
        · right; left; exact ⟨b, q, hf, hq, rfl, hbd, he, by rw [hstep]; simp [echoStep, he]⟩
  | awaitPayload =>
    have hb := hbusy _ hd
    rcases rxRead_cases draw.readFails s with ⟨hf, hr⟩ | ⟨hf, hq, hr⟩ | ⟨hf, b, q, hq, hr⟩
    · exact Or.inr (Or.inl ⟨hb, hf, by simp only [deframeStep, hd, hr]⟩)
    · exact Or.inr (Or.inr (Or.inl ⟨hb, hf, hq, by simp only [deframeStep, hd, hr]⟩))
    · have hstep : deframeStep depth draw s = payloadStep depth b (s.setRxq q) := by
        simp only [deframeStep, hd, hr]
      iterate 7 right
      by_cases hp : s.payCount.toNat < depth
      · left; exact ⟨b, q, hf, hq, rfl, hp, by rw [hstep]; simp [payloadStep, hp]⟩
      · right; exact ⟨b, q, hf, hq, rfl, hp, by rw [hstep]; simp [payloadStep, hp]⟩

end Sys2Proof.Machine
end

