-- ==== Sys2Proof/Laws/PerInstr.lean ====
section
/-! SUPPORT. The family `DecodeEncode`: decoding the bytes of a well-formed instruction gives it back, said of each
constructor of `Instr`. -/

namespace Sys2Proof.Laws.DecodeEncode

open Sys2Proof.Machine

/-- The bytes of a well-formed instruction decode to it, in its format. -/
def Statement (i : Instr) : Prop := i.wf = true → decode i.format (encode i) = .ok i

/-- A descriptor of at most 255 operand bytes decodes to what its `OP` selects. -/
theorem decode_descriptorBytes {op : Byte} {a : List Byte} {i : Instr} (h : a.length ≤ 255)
    (ho : decodeOp op a = some i) : decode .descriptor (descriptorBytes op a) = .ok i := by
  have hl : a.length = (BitVec.ofNat 8 a.length).toNat := by
    rw [BitVec.toNat_ofNat]; omega
  simp [decode, descriptorBytes, decodeDescriptor, ← hl, ho]

/-- A logical command of at most 253 data bytes decodes to its row. -/
theorem decode_logicalCommand {op p : Byte} {d : List Byte} {i : Instr} (h : d.length ≤ 253)
    (ho : decodeWireRow op p d = some i) : decode .wire (logicalCommand op p d) = .ok i := by
  simp [decode, logicalCommand, decodeWire, h, ho]

theorem nop (a : List Byte) : Statement (.nop a) := fun h =>
  decode_descriptorBytes (of_decide_eq_true h) rfl

theorem reset (a : List Byte) : Statement (.reset a) := fun h =>
  decode_descriptorBytes (of_decide_eq_true h) rfl

theorem cksum (a : List Byte) : Statement (.cksum a) := fun h =>
  decode_descriptorBytes (of_decide_eq_true h) rfl

theorem stuffFm (a : List Byte) : Statement (.stuffFm a) := fun h =>
  decode_descriptorBytes (of_decide_eq_true h) rfl

theorem stuffAm (a : List Byte) : Statement (.stuffAm a) := fun h =>
  decode_descriptorBytes (of_decide_eq_true h) rfl

theorem unstuffFm (a : List Byte) : Statement (.unstuffFm a) := fun h =>
  decode_descriptorBytes (of_decide_eq_true h) rfl

theorem decFm (a : List Byte) : Statement (.decFm a) := fun h =>
  decode_descriptorBytes (of_decide_eq_true h) rfl

theorem decAm (a : List Byte) : Statement (.decAm a) := fun h =>
  decode_descriptorBytes (of_decide_eq_true h) rfl

theorem deframeStart (a : List Byte) : Statement (.deframeStart a) := fun h =>
  decode_descriptorBytes (of_decide_eq_true h) rfl

theorem deframeRead (a : List Byte) : Statement (.deframeRead a) := fun h =>
  decode_descriptorBytes (of_decide_eq_true h) rfl

theorem deframeAbort (a : List Byte) : Statement (.deframeAbort a) := fun h =>
  decode_descriptorBytes (of_decide_eq_true h) rfl

theorem decState (a : List Byte) : Statement (.decState a) := fun h =>
  decode_descriptorBytes (of_decide_eq_true h) rfl

theorem decBand (a : List Byte) : Statement (.decBand a) := fun h =>
  decode_descriptorBytes (of_decide_eq_true h) rfl

theorem frameCmd (a : List Byte) : Statement (.frameCmd a) := fun h =>
  decode_descriptorBytes (of_decide_eq_true h) rfl

theorem frameSetFm (a : List Byte) : Statement (.frameSetFm a) := fun h =>
  decode_descriptorBytes (of_decide_eq_true h) rfl

theorem frameSetAm (a : List Byte) : Statement (.frameSetAm a) := fun h =>
  decode_descriptorBytes (of_decide_eq_true h) rfl

theorem getPower (d : List Byte) : Statement (.getPower d) := fun h =>
  decode_logicalCommand (of_decide_eq_true h) rfl

theorem setPower (d : List Byte) : Statement (.setPower d) := fun h =>
  decode_logicalCommand (of_decide_eq_true h) rfl

theorem getBlend (d : List Byte) : Statement (.getBlend d) := fun h =>
  decode_logicalCommand (of_decide_eq_true h) rfl

theorem setBlend (d : List Byte) : Statement (.setBlend d) := fun h =>
  decode_logicalCommand (of_decide_eq_true h) rfl

theorem getMute (d : List Byte) : Statement (.getMute d) := fun h =>
  decode_logicalCommand (of_decide_eq_true h) rfl

theorem setMute (d : List Byte) : Statement (.setMute d) := fun h =>
  decode_logicalCommand (of_decide_eq_true h) rfl

theorem getBand (d : List Byte) : Statement (.getBand d) := fun h =>
  decode_logicalCommand (of_decide_eq_true h) rfl

theorem getFm (d : List Byte) : Statement (.getFm d) := fun h =>
  decode_logicalCommand (of_decide_eq_true h) rfl

theorem getAm (d : List Byte) : Statement (.getAm d) := fun h =>
  decode_logicalCommand (of_decide_eq_true h) rfl

theorem getDeviceId (d : List Byte) : Statement (.getDeviceId d) := fun h =>
  decode_logicalCommand (of_decide_eq_true h) rfl

theorem switchBand (p : Byte) (d : List Byte) : Statement (.switchBand p d) := fun h =>
  decode_logicalCommand (of_decide_eq_true h) rfl

theorem setFm (raw : Word16) : Statement (.setFm raw) := fun _ =>
  decode_logicalCommand (by simp) (by simp [decodeWireRow, rawBytes, decodeRaw])

theorem setAm (raw : Word16) : Statement (.setAm raw) := fun _ =>
  decode_logicalCommand (by simp) (by simp [decodeWireRow, rawBytes, decodeRaw])

end Sys2Proof.Laws.DecodeEncode
end

