-- ==== Sys2Proof/Laws/Step.lean ====
section
/-! SUPPORT. One step, what each request to the command unit does, and what the host's step in a sequence does. -/

namespace Sys2Proof.Machine

theorem step_nil {s : State} (h : s.moves = []) : step s = .next s := by
  simp [step, stepMoves, h]

theorem step_cons {s : State} {m : Move} {rest : List Move} (h : s.moves = m :: rest) :
    step s = moveStep m (s.setMoves rest) := by
  simp [step, stepMoves, h]

theorem commandStep_ok {f : Format} {bs : List Byte} {i : Instr} (h : decode f bs = .ok i) (s : State) :
    commandStep f bs s = exec i s := by
  simp [commandStep, h]

theorem commandStep_illegalOp {f : Format} {bs : List Byte} {op : Byte} (h : decode f bs = .error (.illegalOp op))
    (s : State) : commandStep f bs s = raise .errIllegalOp s := by
  simp [commandStep, h]

/-- A request either runs the decoded instruction, raises `ERR_ILLEGAL_OP`, or is no request at all. -/
theorem commandStep_cases (f : Format) (bs : List Byte) (s : State) :
    (∃ i, decode f bs = .ok i ∧ commandStep f bs s = exec i s) ∨
    (∃ op, decode f bs = .error (.illegalOp op) ∧ commandStep f bs s = raise .errIllegalOp s) ∨
    (∃ r, commandStep f bs s = .refused r) := by
  unfold commandStep
  split
  · next i h => exact Or.inl ⟨i, h, rfl⟩
  · next op h => exact Or.inr (Or.inl ⟨op, h, rfl⟩)
  · exact Or.inr (Or.inr ⟨_, rfl⟩)
  · exact Or.inr (Or.inr ⟨_, rfl⟩)

theorem hostIssue_of_result {a : HostAction} {bytes : List Byte} {rest : List HostAction}
    {others : List (List HostAction)} {s t : State} {r : ResultDesc} {rs : List ResultDesc}
    (h : commandStep .descriptor bytes s = .next t) (hr : t.results = r :: rs) :
    hostIssue a bytes rest others s = .next (t.setHost (afterResult a rest r :: others)) := by
  simp only [hostIssue, h, hr]

/-- An action that issues a descriptor does what the command unit does with it; only the host's sequences differ. -/
theorem hostIssue_cases (a : HostAction) (bytes : List Byte) (rest : List HostAction) (others : List (List HostAction))
    (s : State) :
    (∃ t hs, commandStep .descriptor bytes s = .next t ∧ hostIssue a bytes rest others s = .next (t.setHost hs)) ∨
    (∃ f, commandStep .descriptor bytes s = .fault f ∧ hostIssue a bytes rest others s = .fault f) ∨
    (∃ r, hostIssue a bytes rest others s = .refused r) := by
  unfold hostIssue
  split
  · next t h =>
    split
    · exact Or.inl ⟨t, _, h, rfl⟩
    · exact Or.inl ⟨t, t.host, h, rfl⟩
  · next f h => exact Or.inr (Or.inl ⟨f, h, rfl⟩)
  · exact Or.inr (Or.inr ⟨_, rfl⟩)

/-- Everything the host's step can do: it changes the host's sequences and what is sent, and no more; or it issues a
descriptor, that of its current action or the one that reads the deframer's outcome. -/
theorem hostStep_cases (w : Option Nat) (s : State) :
    (∃ hs bs, hostStep w s = .next { s with host := hs, sent := bs }) ∨
    (∃ a bytes rest others, s.host = (a :: rest) :: others ∧
      (a = .issue bytes ∨ a = .frame bytes ∨ (∃ use, a = .poll use) ∧ bytes = descriptorBytes 0x41#8 []) ∧
      hostStep w s = hostIssue a bytes rest others s) := by
  unfold hostStep
  split
  · exact Or.inl ⟨s.host, s.sent, rfl⟩
  · exact Or.inl ⟨_, s.sent, rfl⟩
  · next h => exact Or.inr ⟨_, _, _, _, h, Or.inl rfl, rfl⟩
  · next h => exact Or.inr ⟨_, _, _, _, h, Or.inr (Or.inl rfl), rfl⟩
  · next h => exact Or.inr ⟨_, _, _, _, h, Or.inr (Or.inr ⟨⟨_, rfl⟩, rfl⟩), rfl⟩
  · split
    · exact Or.inl ⟨_, _, rfl⟩
    · exact Or.inl ⟨_, _, rfl⟩

end Sys2Proof.Machine
end

