-- ==== Sys2Proof/Laws/Run.lean ====
section
/-! SUPPORT. Runs of several steps, one step at a time. -/

namespace Sys2Proof.Machine

@[simp] theorem runSteps_zero (s : State) : runSteps 0 s = .next s := rfl

theorem runSteps_succ_of_next {k : Nat} {s t : State} (h : step s = .next t) :
    runSteps (k + 1) s = runSteps k t := by
  simp only [runSteps, h]

theorem runSteps_succ_of_fault {k : Nat} {s : State} {f : Fault} (h : step s = .fault f) :
    runSteps (k + 1) s = .fault f := by
  simp only [runSteps, h]

theorem runSteps_succ_of_refused {k : Nat} {s : State} {r : Refusal} (h : step s = .refused r) :
    runSteps (k + 1) s = .refused r := by
  simp only [runSteps, h]

/-- A run of `k + 1` steps that ends in a state began with a step that did. -/
theorem runSteps_succ_next_inv {k : Nat} {s t : State} (h : runSteps (k + 1) s = .next t) :
    ∃ u, step s = .next u ∧ runSteps k u = .next t := by
  cases hs : step s with
  | next u => exact ⟨u, rfl, by rw [← h, runSteps_succ_of_next hs]⟩
  | fault f => rw [runSteps_succ_of_fault hs] at h; cases h
  | refused r => rw [runSteps_succ_of_refused hs] at h; cases h

/-- A run of `j + k` steps is a run of `j` and then one of `k`. -/
theorem runSteps_add {j k : Nat} {s u : State} (h : runSteps j s = .next u) :
    runSteps (j + k) s = runSteps k u := by
  induction j generalizing s with
  | zero => cases h; rw [Nat.zero_add]
  | succ j ih =>
    obtain ⟨v, hv, hr⟩ := runSteps_succ_next_inv h
    rw [Nat.succ_add, runSteps_succ_of_next hv, ih hr]

theorem hostRun_of_next (M : Host.Core) {k : Nat} {s t : M.State} (h : M.step s = .next t) :
    M.run (k + 1) s = M.run k t := by
  simp only [Host.Core.run, h]

theorem hostRun_of_fault (M : Host.Core) {k : Nat} {s : M.State} {f : M.Fault} (h : M.step s = .fault f) :
    M.run (k + 1) s = .fault f := by
  simp only [Host.Core.run, h]

theorem hostRun_of_refused (M : Host.Core) {k : Nat} {s : M.State} {r : M.Refusal} (h : M.step s = .refused r) :
    M.run (k + 1) s = .refused r := by
  simp only [Host.Core.run, h]

/-- The run of the host's interface is this run. -/
theorem hostRun_eq_runSteps (k : Nat) (s : State) : Host.Core.run core k s = runSteps k s := by
  induction k generalizing s with
  | zero => rfl
  | succ k ih =>
    cases hs : step s with
    | next t => exact (hostRun_of_next core hs).trans ((ih t).trans (runSteps_succ_of_next hs).symm)
    | fault f => exact (hostRun_of_fault core hs).trans (runSteps_succ_of_fault hs).symm
    | refused r => exact (hostRun_of_refused core hs).trans (runSteps_succ_of_refused hs).symm

end Sys2Proof.Machine
end

