-- ==== Sys2Proof/Laws/Stuffer.lean ====
section
/-! SUPPORT. The two stuffing tables, case by case. -/

namespace Sys2Proof.Machine

theorem byte_eq_of_toNat {b : Byte} {n : Nat} (h : b.toNat = n) : b = BitVec.ofNat 8 n := by
  subst h; simp

/-- Everything FM stuffing can do: the four rows of R121. -/
theorem stuffFmBytes_cases (b0 b1 : Byte) :
    (b0 = 94 ∧ stuffFmBytes b0 b1 = ([94, 94, b1], [])) ∨
    (b0 ∈ Const.fmTrailerSet ∧ stuffFmBytes b0 b1 = ([b0, b1], [94])) ∨
    (b0 = 2 ∧ stuffFmBytes b0 b1 = ([94, 66, b1], [])) ∨
    (b0 ≠ 94 ∧ b0 ∉ Const.fmTrailerSet ∧ b0 ≠ 2 ∧ stuffFmBytes b0 b1 = ([b0, b1], [])) := by
  unfold stuffFmBytes
  split
  · next h => exact Or.inl ⟨byte_eq_of_toNat h, rfl⟩
  · next h => exact Or.inr (Or.inl ⟨by rw [byte_eq_of_toNat h]; decide, rfl⟩)
  · next h => exact Or.inr (Or.inl ⟨by rw [byte_eq_of_toNat h]; decide, rfl⟩)
  · next h => exact Or.inr (Or.inl ⟨by rw [byte_eq_of_toNat h]; decide, rfl⟩)
  · next h => exact Or.inr (Or.inl ⟨by rw [byte_eq_of_toNat h]; decide, rfl⟩)
  · next h => exact Or.inr (Or.inr (Or.inl ⟨byte_eq_of_toNat h, rfl⟩))
  · next h1 h2 h3 h4 h5 h6 =>
    refine Or.inr (Or.inr (Or.inr ⟨by rintro rfl; exact h1 rfl, ?_, by rintro rfl; exact h6 rfl, rfl⟩))
    simp only [List.mem_cons, List.not_mem_nil, or_false, not_or]
    exact ⟨by rintro rfl; exact h2 rfl, by rintro rfl; exact h3 rfl, by rintro rfl; exact h4 rfl,
      by rintro rfl; exact h5 rfl⟩

/-- A byte that takes the trailer is not one that is escaped. -/
theorem fmTrailer_not_escaped {b0 : Byte} (h : b0 ∈ Const.fmTrailerSet) : b0 ≠ 94 ∧ b0 ≠ 2 := by
  constructor <;> (rintro rfl; revert h; decide)

/-- Everything AM stuffing can do (R124). -/
theorem stuffAmBytes_cases (b0 b1 : Byte) :
    (b1 = 2 ∧ stuffAmBytes b0 b1 = [b0, 94, 66]) ∨ (b1 ≠ 2 ∧ stuffAmBytes b0 b1 = [b0, b1]) := by
  unfold stuffAmBytes
  split
  · next h => exact Or.inl ⟨byte_eq_of_toNat h, rfl⟩
  · next h => exact Or.inr ⟨by rintro rfl; exact h rfl, rfl⟩

end Sys2Proof.Machine
end

