-- ==== Sys2Proof/Tests/Slice0.lean ====
section
/-! SUPPORT. Tests, and a witness for every statement that has hypotheses. Expected words and results are taken from the
encoding rules of 30_encoding.md and from the vectors of 95_test_vectors.md, never from the model. -/

namespace Sys2Proof.Tests

open Sys2Proof.Machine

/-! ### Small states -/

/-- The power-on state with an empty channel queue, as the programs of 95_test_vectors.md start. -/
def start : State := State.reset.setRxq []

/-- Awaiting the delimiter, `q` received, one deframer step due. -/
def awaiting (echo : Byte) (q : List Byte) (d : ChannelDraw) : State :=
  { start with dstate := .awaitDelim, echoCount := echo, rxq := q, moves := [.deframe d] }

/-- Awaiting the payload: `n` bytes due, `p` of them stored as 9, `q` received, one deframer step due. -/
def paying (n p : Byte) (q : List Byte) (d : ChannelDraw) : State :=
  { start with dstate := .awaitPayload, echoCount := n, nExpect := n, payCount := p,
               payBuf := (List.range p.toNat).map (fun k => (k, 9)), rxq := q, moves := [.deframe d] }

/-- A completed read of the bytes 9 and 8. -/
def done98 : State :=
  { start with dstate := .done, echoCount := 2, nExpect := 2, payCount := 2, payBuf := [(0, 9), (1, 8)] }

/-- A failed read. -/
def failed (e : DErr) : State := { start with dstate := .error, derr := e }

/-- No draw fails. -/
def good : ChannelDraw := ⟨false, false⟩

/-- The newest result descriptor of an answer, as bytes `[STATUS, RLEN, Q...]` (R71). -/
def resultBytes (o : Out) : Option (List Byte) :=
  match o with
  | .next t => t.results.head?.map encodeResult
  | .fault _ => none
  | .refused _ => none

/-- The answer of a descriptor in a state, through decode and step. -/
def run1 (s : State) (bytes : List Byte) : Option (List Byte) := resultBytes (step (s.setMoves [.issue bytes]))

/-- The phase, the three counters and the queue after an answer. -/
def view (o : Out) : Option (DState × List Byte × List Byte) :=
  match o with
  | .next t => some (t.dstate, [t.echoCount, t.nExpect, t.payCount], t.rxq)
  | .fault _ => none
  | .refused _ => none

/-! ### Well-formedness: an ill-formed term for each check -/

theorem test_wf_operands_full : (Instr.cksum (List.replicate 255 0)).wf = true := by
  simp only [Instr.wf, operandsFit, List.length_replicate]; decide
theorem test_wf_operands_refused : (Instr.cksum (List.replicate 256 0)).wf = false := by
  simp only [Instr.wf, operandsFit, List.length_replicate]; decide
theorem test_wf_wire_full : (Instr.getFm (List.replicate 253 0)).wf = true := by
  simp only [Instr.wf, wireDataFits, List.length_replicate]; decide
theorem test_wf_wire_refused : (Instr.getFm (List.replicate 254 0)).wf = false := by
  simp only [Instr.wf, wireDataFits, List.length_replicate]; decide
theorem test_wf_switch_band_refused : (Instr.switchBand 43 (List.replicate 254 0)).wf = false := by
  simp only [Instr.wf, wireDataFits, List.length_replicate]; decide

/-! ### Decoding: words written out from R70, R73 (descriptors) and R81, R220 to R232 (wire) -/

theorem test_decode_control :
    decode .descriptor [0x00, 0] = .ok (.nop []) ∧ decode .descriptor [0x01, 0] = .ok (.reset []) := ⟨rfl, rfl⟩
theorem test_decode_checksum : decode .descriptor [0x10, 5, 1, 21, 45, 208, 37] = .ok (.cksum [1, 21, 45, 208, 37]) := rfl
theorem test_decode_stuffer :
    decode .descriptor [0x20, 2, 94, 37] = .ok (.stuffFm [94, 37]) ∧
    decode .descriptor [0x21, 2, 19, 2] = .ok (.stuffAm [19, 2]) ∧
    decode .descriptor [0x22, 3, 94, 94, 37] = .ok (.unstuffFm [94, 94, 37]) := ⟨rfl, rfl, rfl⟩
theorem test_decode_codec :
    decode .descriptor [0x30, 6, 1, 21, 45, 94, 94, 37] = .ok (.decFm [1, 21, 45, 94, 94, 37]) ∧
    decode .descriptor [0x31, 6, 1, 21, 44, 19, 94, 66] = .ok (.decAm [1, 21, 44, 19, 94, 66]) := ⟨rfl, rfl⟩
theorem test_decode_deframer :
    decode .descriptor [0x40, 0] = .ok (.deframeStart []) ∧ decode .descriptor [0x41, 0] = .ok (.deframeRead []) ∧
    decode .descriptor [0x42, 0] = .ok (.deframeAbort []) := ⟨rfl, rfl, rfl⟩
theorem test_decode_status :
    decode .descriptor [0x50, 5, 3, 1, 20, 21, 65] = .ok (.decState [3, 1, 20, 21, 65]) ∧
    decode .descriptor [0x51, 5, 3, 1, 20, 43, 65] = .ok (.decBand [3, 1, 20, 43, 65]) := ⟨rfl, rfl⟩
theorem test_decode_framer :
    decode .descriptor [0x60, 2, 20, 45] = .ok (.frameCmd [20, 45]) ∧
    decode .descriptor [0x61, 2, 0xD0, 0x25] = .ok (.frameSetFm [0xD0, 0x25]) ∧
    decode .descriptor [0x62, 2, 0x13, 0x02] = .ok (.frameSetAm [0x13, 0x02]) := ⟨rfl, rfl, rfl⟩
theorem test_decode_wire_reads :
    decode .wire [1, 20, 21] = .ok (.getPower []) ∧ decode .wire [1, 20, 49] = .ok (.getBlend []) ∧
    decode .wire [1, 20, 47] = .ok (.getMute []) ∧ decode .wire [1, 20, 43] = .ok (.getBand []) ∧
    decode .wire [1, 20, 45] = .ok (.getFm []) ∧ decode .wire [1, 20, 44] = .ok (.getAm []) ∧
    decode .wire [1, 20, 20] = .ok (.getDeviceId []) := ⟨rfl, rfl, rfl, rfl, rfl, rfl, rfl⟩
theorem test_decode_wire_writes :
    decode .wire [1, 21, 21, 65] = .ok (.setPower [65]) ∧ decode .wire [1, 21, 49, 65] = .ok (.setBlend [65]) ∧
    decode .wire [1, 21, 47, 64] = .ok (.setMute [64]) ∧ decode .wire [1, 22, 43, 65] = .ok (.switchBand 43 [65]) ∧
    decode .wire [1, 21, 45, 208, 37] = .ok (.setFm 9680) ∧ decode .wire [1, 21, 44, 240, 3] = .ok (.setAm 1008) :=
  ⟨rfl, rfl, rfl, rfl, rfl, rfl⟩

/-- Refusals by name: a wrong `LEN`, an unassigned `OP`, another device address, an unknown parameter, a frequency write
without its two data bytes. -/
theorem test_decode_refuses :
    decode .descriptor [0x10, 3, 1] = .error .notDescriptor ∧ decode .descriptor [0x10] = .error .notDescriptor ∧
    decode .descriptor [0x33, 0] = .error (.illegalOp 0x33) ∧ decode .wire [2, 20, 45] = .error .notWire ∧
    decode .wire [1, 20, 46] = .error .notWire ∧ decode .wire [1, 21, 45, 208] = .error .notWire :=
  ⟨rfl, rfl, rfl, rfl, rfl, rfl⟩

/-- R76: the assembler's `#v` is the low byte, then the high byte. -/
theorem test_assemble : assemble "FRAME_SET_FM" [.word 9680] = some [0x61, 2, 0xD0, 0x25] ∧
    assemble "CKSUM" [.byte 1, .byte 2] = some [0x10, 2, 1, 2] ∧ assemble "FRAME" [] = none := by decide

/-! ### The words of spec/opcode_table.json -/

theorem test_table_words :
    decodeTableWord 8 0x00 = some (.nop []) ∧ decodeTableWord 8 0x62 = some (.frameSetAm []) ∧
    decodeTableWord 8 0x33 = none ∧ decodeTableWord 24 0x01142D = some (.getFm []) ∧
    decodeTableWord 24 0x01152D = some (.setFm 0) ∧ decodeTableWord 24 0x011600 = some (.switchBand 0 []) :=
  ⟨rfl, rfl, rfl, rfl, rfl, rfl⟩
theorem test_fetch_word_runs : resultBytes (step (State.reset.withFetchWord 8 0x40)) = some [0x00, 0] := rfl
theorem test_fetch_wire_word_runs :
    resultBytes (step (State.reset.withFetchWord 24 0x01142D)) = some [0x00, 5, 1, 20, 45, 2, 190] := rfl

/-! ### Control (95_test_vectors.md 2.7) -/

theorem test_nop : run1 start [0x00, 0] = some [0x00, 0] ∧ run1 start [0x00, 1, 7] = some [0x11, 0] := by decide
theorem test_reset : run1 (failed .channel) [0x01, 0] = some [0x00, 0] ∧
    view (exec (.reset []) done98) = some (.idle, [0, 0, 0], []) ∧ run1 done98 [0x01, 1, 0] = some [0x11, 0] := by decide
theorem test_illegal_op : run1 start [0x33, 0] = some [0x10, 0] ∧ run1 start [0x7F, 2, 1, 2] = some [0x10, 0] := by decide

/-! ### Checksum, stuffer, codec, status decoder (2.1, 2.2, 2.3, 2.5) -/

theorem test_cksum : run1 start [0x10, 3, 1, 2, 3] = some [0x00, 1, 250] ∧ run1 start [0x10, 1, 0] = some [0x00, 1, 0] ∧
    run1 start [0x10, 0] = some [0x11, 0] := by decide
theorem test_cksum_wraps : run1 start [0x10, 5, 1, 21, 45, 153, 34] = some [0x00, 1, 2] := by decide
theorem test_stuff_fm : run1 start [0x20, 2, 94, 37] = some [0x00, 5, 3, 94, 94, 37, 0] ∧
    run1 start [0x20, 2, 58, 37] = some [0x00, 5, 2, 58, 37, 1, 94] ∧
    run1 start [0x20, 2, 2, 2] = some [0x00, 5, 3, 94, 66, 2, 0] := by decide
theorem test_stuff_fm_neighbours : run1 start [0x20, 2, 55, 37] = some [0x00, 4, 2, 55, 37, 0] ∧
    run1 start [0x20, 2, 95, 37] = some [0x00, 4, 2, 95, 37, 0] ∧ run1 start [0x20, 3, 5, 37, 1] = some [0x11, 0] := by decide
theorem test_stuff_am : run1 start [0x21, 2, 94, 2] = some [0x00, 4, 3, 94, 94, 66] ∧
    run1 start [0x21, 2, 2, 4] = some [0x00, 3, 2, 2, 4] ∧ run1 start [0x21, 0] = some [0x11, 0] := by decide
theorem test_unstuff_fm : run1 start [0x22, 3, 94, 66, 35] = some [0x00, 2, 2, 35] ∧
    run1 start [0x22, 2, 66, 37] = some [0x00, 2, 66, 37] := by decide
theorem test_unstuff_fm_refuses : run1 start [0x22, 2, 94, 37] = some [0x11, 0] ∧
    run1 start [0x22, 3, 5, 66, 35] = some [0x11, 0] ∧ run1 start [0x22, 3, 94, 2, 35] = some [0x11, 0] ∧
    run1 start [0x22, 2, 2, 35] = some [0x11, 0] := by decide
theorem test_dec_fm : run1 start [0x30, 6, 1, 20, 45, 94, 66, 35] = some [0x00, 2, 66, 35] ∧
    run1 start [0x30, 7, 1, 20, 45, 208, 37, 9, 9] = some [0x00, 2, 208, 37] := by decide
theorem test_dec_fm_short : run1 start [0x30, 5, 1, 20, 45, 94, 94] = some [0x12, 0] ∧
    run1 start [0x30, 4, 1, 20, 45, 208] = some [0x12, 0] ∧ run1 start [0x30, 0] = some [0x12, 0] := by decide
theorem test_dec_am : run1 start [0x31, 7, 1, 20, 44, 0, 48, 0, 67] = some [0x00, 2, 240, 3] ∧
    run1 start [0x31, 6, 1, 20, 44, 5, 94, 0] = some [0x00, 2, 5, 192] := by decide
theorem test_dec_am_short : run1 start [0x31, 6, 1, 20, 44, 0, 48, 0] = some [0x12, 0] ∧
    run1 start [0x31, 5, 1, 20, 44, 19, 94] = some [0x12, 0] := by decide
theorem test_dec_state : run1 start [0x50, 5, 3, 1, 20, 21, 65] = some [0x00, 1, 1] ∧
    run1 start [0x50, 5, 3, 1, 20, 21, 94] = some [0x00, 1, 2] ∧ run1 start [0x50, 5, 4, 1, 20, 21, 65] = some [0x12, 0] := by
  decide
theorem test_dec_band : run1 start [0x51, 5, 3, 1, 20, 43, 64] = some [0x00, 1, 0] ∧
    run1 start [0x51, 5, 9, 1, 20, 43, 64] = some [0x12, 0] ∧ run1 start [0x51, 0] = some [0x11, 0] := by decide

/-! ### Framer and wire commands (2.6) -/

theorem test_frame_cmd : run1 start [0x60, 3, 20, 45, 2] = some [0x00, 6, 1, 20, 45, 2, 2, 188] ∧
    run1 start [0x60, 1, 20] = some [0x11, 0] := by decide
theorem test_frame_cmd_too_long :
    resultBytes (exec (.frameCmd (20 :: 45 :: List.replicate 251 0)) start) = some [0x11, 0] := by
  simp only [exec, execFrameCmd, frameCmdUnit, unstuffedFrame, List.length_replicate]; rfl
theorem test_frame_set_fm : run1 start [0x61, 2, 0x5E, 0x25] = some [0x00, 8, 1, 21, 45, 94, 94, 37, 2, 58] ∧
    run1 start [0x61, 2, 58, 37] = some [0x00, 8, 1, 21, 45, 58, 37, 2, 94, 94] ∧
    run1 start [0x61, 2, 2, 35] = some [0x00, 8, 1, 21, 45, 94, 66, 35, 2, 152] := by decide
theorem test_frame_set_am : run1 start [0x62, 2, 0x13, 0x02] = some [0x00, 8, 1, 21, 44, 19, 94, 66, 2, 169] ∧
    run1 start [0x62, 2, 2, 4] = some [0x00, 7, 1, 21, 44, 2, 4, 2, 184] := by decide
theorem test_wire_reads :
    resultBytes (exec (.getPower []) start) = some [0x00, 5, 1, 20, 21, 2, 214] ∧
    resultBytes (exec (.getBlend []) start) = some [0x00, 5, 1, 20, 49, 2, 186] ∧
    resultBytes (exec (.getMute []) start) = some [0x00, 5, 1, 20, 47, 2, 188] ∧
    resultBytes (exec (.getBand []) start) = some [0x00, 5, 1, 20, 43, 2, 192] ∧
    resultBytes (exec (.getFm [94]) start) = some [0x00, 6, 1, 20, 45, 94, 2, 96] ∧
    resultBytes (exec (.getAm []) start) = some [0x00, 5, 1, 20, 44, 2, 191] ∧
    resultBytes (exec (.getDeviceId []) start) = some [0x00, 5, 1, 20, 20, 2, 215] := by decide
/-- Checksums by hand: `1 + 21 + 21 + 65 = 108`, `1 + 21 + 49 + 65 = 136`, `1 + 21 + 47 + 64 = 133`, `1 + 22 + 43 + 65 = 131`. -/
theorem test_wire_state_writes :
    resultBytes (exec (.setPower [65]) start) = some [0x00, 6, 1, 21, 21, 65, 2, 148] ∧
    resultBytes (exec (.setBlend [65]) start) = some [0x00, 6, 1, 21, 49, 65, 2, 120] ∧
    resultBytes (exec (.setMute [64]) start) = some [0x00, 6, 1, 21, 47, 64, 2, 123] ∧
    resultBytes (exec (.switchBand 43 [65]) start) = some [0x00, 6, 1, 22, 43, 65, 2, 125] := by decide
theorem test_wire_frequency_writes :
    resultBytes (exec (.setFm 9680) start) = some [0x00, 7, 1, 21, 45, 208, 37, 2, 200] ∧
    resultBytes (exec (.setAm 1008) start) = some [0x00, 7, 1, 21, 44, 240, 3, 2, 203] := by decide

/-! ### Deframer (2.4) -/

theorem test_deframe_start : view (exec (.deframeStart []) done98) = some (.awaitDelim, [0, 0, 0], []) ∧
    run1 (awaiting 3 [] good) [0x40, 0] = some [0x13, 0] ∧ run1 (paying 3 1 [] good) [0x40, 0] = some [0x13, 0] := by decide
theorem test_deframe_read : run1 start [0x41, 0] = some [0x14, 0] ∧ run1 (awaiting 3 [] good) [0x41, 0] = some [0x01, 0] ∧
    run1 done98 [0x41, 0] = some [0x00, 2, 9, 8] := by decide
theorem test_deframe_read_errors : run1 (failed .channel) [0x41, 0] = some [0x20, 0] ∧
    run1 (failed .overflow) [0x41, 0] = some [0x21, 0] ∧ run1 done98 [0x41, 1, 0] = some [0x11, 0] := by decide
theorem test_deframe_abort : view (exec (.deframeAbort []) (paying 3 1 [7] good)) = some (.idle, [0, 0, 0], [7]) ∧
    run1 start [0x42, 1, 0] = some [0x11, 0] := by decide
/-- At `BUF_DEPTH = 7`: the seventh echo byte is counted, and the eighth overflows. -/
theorem test_echo_at_depth_seven :
    view (deframeStep 7 good (awaiting 6 [9, 9] good)) = some (.awaitDelim, [7, 0, 0], [9]) ∧
    view (deframeStep 7 good (awaiting 7 [9] good)) = some (.error, [7, 0, 0], []) := by decide
theorem test_delimiter_flushes :
    view (deframeStep 7 good (awaiting 3 [2, 190, 1, 20, 45] good)) = some (.awaitPayload, [3, 3, 0], []) ∧
    view (deframeStep 7 good (awaiting 0 [2, 7] good)) = some (.done, [0, 0, 0], []) := by decide
theorem test_flush_fails :
    view (deframeStep 7 ⟨false, true⟩ (awaiting 1 [2, 5] good)) = some (.error, [1, 0, 0], [5]) := by decide
theorem test_payload_byte_two_is_data :
    view (deframeStep 7 good (paying 1 0 [2] good)) = some (.done, [1, 1, 1], []) ∧
    view (deframeStep 7 good (paying 3 1 [2, 6] good)) = some (.awaitPayload, [3, 3, 2], [6]) := by decide
theorem test_read_fails :
    view (deframeStep 7 ⟨true, false⟩ (awaiting 2 [] good)) = some (.error, [2, 0, 0], []) ∧
    view (deframeStep 7 good (awaiting 2 [] good)) = some (.awaitDelim, [2, 0, 0], []) := by decide

/-! ### Witnesses: states and operands that meet the hypotheses of the statements -/

/-- `BUF_DEPTH` as a counter value: it fits the eight bits of `echo_count`. -/
theorem depth_fits : (BitVec.ofNat 8 Config.bufDepth).toNat = Config.bufDepth ∧ 7 ≤ Config.bufDepth := by
  have h := Config.bufDepthAboveSeven.isLt
  constructor
  · rw [BitVec.toNat_ofNat, Nat.mod_eq_of_lt]; unfold Config.bufDepth; omega
  · unfold Config.bufDepth; omega

theorem witness_StepRunsTheDecodedInstruction :
    (decode .descriptor [0x10, 1, 5] = .ok (.cksum [5]) ∧
      ({ start with moves := [.issue [0x10, 1, 5]] } : State).moves = .issue [0x10, 1, 5] :: []) ∧
    (decode .wire [1, 20, 45] = .ok (.getFm []) ∧
      ({ start with moves := [.issueWire [1, 20, 45]] } : State).moves = .issueWire [1, 20, 45] :: []) :=
  ⟨⟨rfl, rfl⟩, ⟨rfl, rfl⟩⟩

/-- The first and the last value of each range of unassigned `OP`s, alone and with operands. -/
theorem witness_UnassignedOpRaisesIllegalOp :
    ∀ op ∈ ([0x02, 0x0F, 0x11, 0x1F, 0x23, 0x2F, 0x32, 0x3F, 0x43, 0x4F, 0x52, 0x5F, 0x63, 0xFF] : List Byte),
      run1 start [op, 0] = some [0x10, 0] ∧ run1 start [op, 2, 1, 2] = some [0x10, 0] := by decide

theorem witness_RefusedOperandsRaiseErrOperand :
    [(7 : Byte)].length ≠ 0 ∧ ([] : List Byte).length = 0 ∧ [(1 : Byte)].length ≠ 2 ∧ [(1 : Byte), 2, 3].length ≠ 2 ∧
    ([(1 : Byte), 2, 3, 4].length ≠ 2 ∧ [(1 : Byte), 2, 3, 4].length ≠ 3) ∧ [(20 : Byte)].length < 2 ∧
    252 < (List.replicate 253 (0 : Byte)).length := by
  simp only [List.length_replicate]; decide

/-- The tails `[94, 5]`, `[94, 65, 5]` and `[2, 5]` are no tail of R121. -/
theorem witness_RefusedOperandsRaiseErrOperand_tails :
    ∀ t ∈ ([[94, 5], [94, 65, 5], [2, 5]] : List (List Byte)), ∀ b0 b1 : Byte, (stuffFmBytes b0 b1).1 ≠ t := by
  intro t ht b0 b1
  simp only [List.mem_cons, List.not_mem_nil, or_false] at ht
  rcases stuffFmBytes_cases b0 b1 with ⟨-, h⟩ | ⟨hb, h⟩ | ⟨-, h⟩ | ⟨hb, -, hb2, h⟩ <;> rw [h] <;>
    rcases ht with rfl | rfl | rfl <;> intro e <;> injection e with e0 e1
  all_goals first
    | exact absurd e0 (fmTrailer_not_escaped hb).1
    | exact absurd e0 (fmTrailer_not_escaped hb).2
    | exact absurd e0 hb
    | exact absurd e0 hb2
    | exact absurd e0 (by decide)
    | exact absurd e1 (by simp)

theorem witness_ErrorsReturnNoBytesAndWriteNoState :
    exec (.cksum []) start = .next { start with results := [⟨.errOperand, []⟩] } ∧
    exec (.cksum [1]) start = .next { start with results := [⟨.ok, [255]⟩] } := ⟨rfl, rfl⟩

theorem witness_CombinationalResultIsAFunctionOfOperands : combinational (.frameSetFm [0xD0, 0x25]) = true := rfl

theorem witness_CombinationalCommutesWithDeframerStep :
    combinational (.stuffFm [2, 35]) = true ∧
    deframeStep 7 good (awaiting 1 [20] good) = .next ((awaiting 2 [] good)) := ⟨rfl, rfl⟩

theorem witness_OnlyThreeOperationsWriteTheDeframer :
    exec (.deframeRead []) done98 = .next { done98 with results := [⟨.ok, [9, 8]⟩] } ∧
    (∀ a, Instr.deframeRead [] ≠ .reset a) ∧ (∀ a, Instr.deframeRead [] ≠ .deframeStart a) ∧
    (∀ a, Instr.deframeRead [] ≠ .deframeAbort a) := ⟨rfl, nofun, nofun, nofun⟩

theorem witness_NoOperationTouchesTheChannel :
    exec (.deframeAbort []) (start.setRxq [7]) = .next { start with rxq := [7], results := [⟨.ok, []⟩] } := rfl

theorem witness_DeliveryAppendsOneByte :
    ({ start with moves := [.deliver 7] } : State).moves = .deliver 7 :: [] := rfl

theorem witness_HostWriteLeavesTheBlockAlone :
    ({ start with moves := [.hostWrite [1, 2] none] } : State).moves = .hostWrite [1, 2] none :: [] ∧
    ({ start with moves := [.hostWrite [1, 2] (some 1)] } : State).moves = .hostWrite [1, 2] (some 1) :: [] := ⟨rfl, rfl⟩

/-- For `NopReturnsOk`, `ResetGivesTheResetTable`, and the last clauses of the three deframer operations. -/
theorem witness_operands_not_empty : [(0 : Byte)] ≠ [] := by decide

/-- For `CksumReturnsTheNegatedSum` and `ChecksumMakesTheSumZero`: the shortest list and the longest one. -/
theorem witness_CksumReturnsTheNegatedSum : [(0 : Byte)] ≠ [] ∧ List.replicate 255 (255 : Byte) ≠ [] :=
  ⟨by decide, fun h => absurd (congrArg List.length h) (by rw [List.length_replicate]; decide)⟩

theorem witness_ChecksumOfChecksummedListIsZero :
    [(1 : Byte), 20, 45] ≠ [] ∧ [(1 : Byte), 20, 45].Perm [45, 1, 20] := by decide

/-- One value for each clause; 93 is a neighbour of 94 for the last. -/
theorem witness_StuffFmFollowsTheTable :
    ((94 : Byte) = 94) ∧ ((54 : Byte) = 60 ∨ (54 : Byte) = 58 ∨ (54 : Byte) = 56 ∨ (54 : Byte) = 54) ∧ ((2 : Byte) = 2) ∧
    ((93 : Byte) ≠ 94 ∧ (93 : Byte) ≠ 60 ∧ (93 : Byte) ≠ 58 ∧ (93 : Byte) ≠ 56 ∧ (93 : Byte) ≠ 54 ∧ (93 : Byte) ≠ 2) ∧
    [(1 : Byte), 2, 3].length ≠ 2 := by decide

theorem witness_StuffAmEscapesOnlyHighByteTwo : ((2 : Byte) = 2) ∧ ((3 : Byte) ≠ 2) ∧ [(1 : Byte)].length ≠ 2 := by decide

/-- `[94, 37]` and `[2, 37]` are none of the accepted tails; 93 is a low byte of the third clause. -/
theorem witness_UnstuffFmAcceptsExactlyThreeTails :
    (93 : Byte) ≠ 94 ∧ (93 : Byte) ≠ 2 ∧
    ∀ b ∈ [(94 : Byte), 2], (∀ b1 : Byte, [b, 37] ≠ [94, 94, b1]) ∧ (∀ b1 : Byte, [b, 37] ≠ [94, 66, b1]) ∧
      (∀ b0 b1 : Byte, b0 ≠ 94 → b0 ≠ 2 → [b, 37] ≠ [b0, b1]) := by
  refine ⟨by decide, by decide, fun b hb => ⟨fun _ e => by simp at e, fun _ e => by simp at e, ?_⟩⟩
  intro b0 b1 h h2 e
  injection e with e0
  rcases List.mem_pair.1 hb with rfl | rfl
  · exact h e0.symm
  · exact h2 e0.symm

theorem witness_FmStuffingRoundTrips :
    exec (.unstuffFm [94, 66, 5]) start = .next { start with results := [⟨.ok, [2, 5]⟩] } ∧
    exec (.unstuffFm [60, 5]) start = .next { start with results := [⟨.ok, [60, 5]⟩] } ∧
    (stuffFmBytes 2 5).1 = (stuffFmBytes 2 5).1 := ⟨rfl, rfl, rfl⟩

/-- One response for each clause, the shortest for the two that complete and the longest for the three that are short. -/
theorem witness_DecFmReadsThePairAtTheMarker :
    (([1, 20, 45, 94, 66, 35] : List Byte)[3]? = some 94 ∧ ([1, 20, 45, 94, 66, 35] : List Byte)[4]? = some 66 ∧
      ([1, 20, 45, 94, 66, 35] : List Byte)[5]? = some 35) ∧
    ((208 : Byte) ≠ 94 ∧ ([1, 20, 45, 208, 37] : List Byte)[3]? = some 208 ∧
      ([1, 20, 45, 208, 37] : List Byte)[4]? = some 37) ∧
    ([1, 20, 45] : List Byte).length < 4 ∧
    (([1, 20, 45, 94, 94] : List Byte)[3]? = some 94 ∧ ([1, 20, 45, 94, 94] : List Byte).length < 6) ∧
    (([1, 20, 45, 208] : List Byte)[3]? ≠ some 94 ∧ ([1, 20, 45, 208] : List Byte).length < 5) := by decide

theorem witness_DecAmRemovesTheBias :
    (([1, 21, 44, 19, 94, 66] : List Byte)[4]? = some 94 ∧ ([1, 21, 44, 19, 94, 66] : List Byte)[3]? = some 19 ∧
      ([1, 21, 44, 19, 94, 66] : List Byte)[5]? = some 66) ∧
    ((48 : Byte) ≠ 94 ∧ ([1, 20, 44, 0, 48, 0, 67] : List Byte)[4]? = some 48 ∧
      ([1, 20, 44, 0, 48, 0, 67] : List Byte)[6]? = some 67) ∧
    ([1, 20, 44, 19] : List Byte).length < 5 ∧
    (([1, 20, 44, 19, 94] : List Byte)[4]? = some 94 ∧ ([1, 20, 44, 19, 94] : List Byte).length < 6) ∧
    (([1, 20, 44, 0, 48, 0] : List Byte)[4]? ≠ some 94 ∧ ([1, 20, 44, 0, 48, 0] : List Byte).length < 7) := by decide

theorem witness_ThreeBytePayloadIsTooShort : ([1, 20, 45] : List Byte).length = 3 := rfl

/-- For `DecStateMapsTheByteAtTheOffset` and `DecBandMapsTheByteAtTheOffset`: the first and the last byte of a response,
the offset just past it, and the largest offset. -/
theorem witness_DecStateMapsTheByteAtTheOffset :
    ([64, 65] : List Byte)[(0 : Byte).toNat]? = some 64 ∧ ([64, 65] : List Byte)[(1 : Byte).toNat]? = some 65 ∧
    ([64, 65] : List Byte).length ≤ (2 : Byte).toNat ∧ ([] : List Byte).length ≤ (255 : Byte).toNat := by decide

/-- For `FrameCmdBuildsTheUnstuffedFrame`, and the data of `GetDeviceIdIsFramedAsTheSpecReadsIt`: the empty data, the longest that fits, and the shortest that does not. -/
theorem witness_FrameCmdBuildsTheUnstuffedFrame :
    ([] : List Byte).length ≤ 250 ∧ (List.replicate 250 (0 : Byte)).length ≤ 250 ∧ [(20 : Byte)].length < 2 ∧
    252 < (List.replicate 253 (0 : Byte)).length := by
  simp only [List.length_replicate]; decide

/-- For `FrameSetFmBuildsTheStuffedFrame` and `FrameSetAmBuildsTheStuffedFrame`. -/
theorem witness_FrameSetBuildsTheStuffedFrame : [(1 : Byte), 2, 3].length ≠ 2 ∧ [(1 : Byte)].length ≠ 2 := by decide

theorem witness_FramesEndInDelimiterAndChecksum : (60 : Byte) ∈ Const.fmTrailerSet ∧ (61 : Byte) ∉ Const.fmTrailerSet := by
  decide

theorem witness_ReadCommandsAreFramed :
    (List.replicate 250 (0 : Byte)).length ≤ 250 ∧
    ((44 : Byte), Instr.getAm []) ∈ [((21 : Byte), Instr.getPower []), (44, .getAm [])] ∧
    ((45 : Byte), (190 : Byte), Instr.getFm []) ∈ [((45 : Byte), (190 : Byte), Instr.getFm [])] := by
  simp only [List.length_replicate]; decide

theorem witness_WriteCommandsAreFramed :
    (List.replicate 250 (0 : Byte)).length ≤ 250 ∧
    ((22 : Byte), (43 : Byte), Instr.switchBand 43 [65]) ∈
      [((21 : Byte), (21 : Byte), Instr.setPower [65]), (22, 43, .switchBand 43 [65])] := by
  simp only [List.length_replicate]; decide

theorem witness_OversizedWireDataRaisesErrOperand :
    250 < (List.replicate 251 (0 : Byte)).length ∧
    exec (.getFm (List.replicate 251 0)) start = .next { start with results := [⟨.errOperand, []⟩] } := by
  simp only [exec, execGetFm, unstuffedFrame, List.length_replicate]; exact ⟨by decide, rfl⟩

/-- The data that fits, at both ends; the state in which a sequence begins; and a state for each clause of the poll and for
the decoder that follows it. -/
theorem witness_HostSequencesSendStartPollAndDecode :
    (([] : List Byte).length ≤ 250 ∧ (List.replicate 250 (0 : Byte)).length ≤ 250) ∧
    (∀ seq ∈ [pseudoGetWith 45 [] (some ⟨0x30, []⟩), pseudoSetFm 9680, pseudoSetAm 531, pseudoSetStateWith 21 [65]],
      let s : State := { start with host := [seq], moves := [.host none, .host none, .host none] ++ [.deliver 1] }
      s.dstate ≠ .awaitDelim ∧ s.dstate ≠ .awaitPayload ∧ s.host = seq :: [] ∧
        s.moves = [.host none, .host none, .host none] ++ [.deliver 1]) ∧
    (awaiting 3 [] good).dstate = .awaitDelim ∧ (paying 3 1 [] good).dstate = .awaitPayload ∧
    (done98.dstate = .done ∧ ([9, 8] : List Byte).length = done98.payCount.toNat ∧
      ∀ k < ([9, 8] : List Byte).length, Memory.read done98.payBuf k = ([9, 8] : List Byte)[k]?) ∧
    ((failed .channel).dstate = .error ∧ (failed .channel).derr = .channel) ∧
    ((failed .overflow).dstate = .error ∧ (failed .overflow).derr = .overflow) ∧ start.dstate = .idle ∧
    (decode .descriptor [0x30, 2, 9, 8] = .ok (.decFm [9, 8]) ∧
      exec (.decFm [9, 8]) start = .next { start with results := ⟨.errShortResponse, []⟩ :: start.results }) := by
  refine ⟨by simp only [List.length_replicate]; decide, ?_, rfl, rfl, by decide, by decide, by decide, rfl, rfl, rfl⟩
  intro seq _
  exact ⟨nofun, nofun, rfl, rfl⟩

/-- R77 as one run: `GET_FM` with no data sends its frame (95_test_vectors.md 2.6), polls once while the read is in progress,
then again, gets the empty payload of an empty echo (2.4), and decodes it, which is too short (2.3). -/
theorem test_get_fm_sequence :
    let get : List HostAction := pseudoGetWith 45 [] (some ⟨0x30, []⟩)
    let h : Move := .host none
    let d : Move := .deframe good
    let s : State := { start with host := [get], moves :=
      [h, h, h, h, .deliver 2, d, h, h, h] }
    runSteps 9 s = .next { start with dstate := .done, sent := [1, 20, 45, 2, 190], results :=
      [⟨.errShortResponse, []⟩, ⟨.ok, []⟩, ⟨.pending, []⟩, ⟨.ok, []⟩, ⟨.ok, [1, 20, 45, 2, 190]⟩] } := rfl

/-- A failing write ends the sequence with the first bytes sent (R274), and a poll of a failed read ends it (R179). -/
theorem test_sequence_ends_with_an_error :
    hostStep (some 2) { start with host := [[.write [1, 20, 45], .poll none]] } =
      .next { start with host := [[]], sent := [1, 20] } ∧
    hostStep none { failed .channel with host := [[.poll (some ⟨0x30, []⟩)]] } =
      .next { failed .channel with host := [[]], results := [⟨.errChannel, []⟩] } := ⟨rfl, rfl⟩

/-- The bounds of the AM grid and 1026 between them. -/
theorem witness_OnlyAm1026HasADelimiterLowByte :
    validAm (531 : Word16).toNat ∧ validAm (1026 : Word16).toNat ∧ validAm (1602 : Word16).toNat := by
  unfold validAm; decide

theorem witness_DeframeStartBeginsARead :
    (start.dstate ≠ .awaitDelim ∧ start.dstate ≠ .awaitPayload) ∧
    (awaiting 3 [] good).dstate = .awaitDelim ∧ (paying 3 1 [] good).dstate = .awaitPayload := by decide

theorem witness_DeframeReadReportsTheOutcome :
    start.dstate = .idle ∧ (awaiting 3 [] good).dstate = .awaitDelim ∧
    (done98.dstate = .done ∧ ([9, 8] : List Byte).length = done98.payCount.toNat ∧
      ∀ k < ([9, 8] : List Byte).length, Memory.read done98.payBuf k = ([9, 8] : List Byte)[k]?) ∧
    ((failed .channel).dstate = .error ∧ (failed .channel).derr = .channel) ∧
    ((failed .overflow).dstate = .error ∧ (failed .overflow).derr = .overflow) := by decide

/-- Both clauses, the first at `echo_count = BUF_DEPTH` for whatever `BUF_DEPTH` is. -/
theorem witness_EchoByteIsCounted :
    ((awaiting (BitVec.ofNat 8 Config.bufDepth) [9] good).dstate = .awaitDelim ∧
      (awaiting (BitVec.ofNat 8 Config.bufDepth) [9] good).rxq = 9 :: [] ∧ (9 : Byte) ≠ 0x02 ∧
      (awaiting (BitVec.ofNat 8 Config.bufDepth) [9] good).moves = .deframe ⟨false, false⟩ :: [] ∧
      (awaiting (BitVec.ofNat 8 Config.bufDepth) [9] good).echoCount.toNat = Config.bufDepth) ∧
    (awaiting 6 [9] good).echoCount.toNat ≠ Config.bufDepth := by
  refine ⟨⟨rfl, rfl, by decide, rfl, depth_fits.1⟩, ?_⟩
  have h := depth_fits.2
  show 6 ≠ Config.bufDepth
  omega

theorem witness_DelimiterEndsTheEcho :
    ((awaiting 3 [2, 190] ⟨false, true⟩).dstate = .awaitDelim ∧ (awaiting 3 [2, 190] ⟨false, true⟩).rxq = 0x02 :: [190] ∧
      (awaiting 3 [2, 190] ⟨false, true⟩).moves = .deframe ⟨false, true⟩ :: []) ∧
    ((awaiting 0 [2, 190] good).moves = .deframe ⟨false, false⟩ :: [] ∧ (awaiting 0 [2, 190] good).echoCount = 0) ∧
    ((awaiting 1 [2, 190] good).moves = .deframe ⟨false, false⟩ :: [] ∧ (awaiting 1 [2, 190] good).echoCount ≠ 0) := by
  decide

/-- The last payload byte of three (index 2), and the first (index 0). -/
theorem witness_PayloadByteIsStored :
    ∀ s ∈ [paying 3 2 [6] good, paying 3 0 [6] good],
      s.dstate = .awaitPayload ∧ s.rxq = 6 :: [] ∧ s.moves = .deframe ⟨false, false⟩ :: [] ∧
      s.payCount.toNat < s.nExpect.toNat ∧ s.nExpect.toNat ≤ Config.bufDepth ∧ Memory.wf s.payBuf = true := by
  have h := depth_fits.2
  intro s hs
  rcases List.mem_pair.1 hs with rfl | rfl
  · exact ⟨rfl, rfl, rfl, by decide, by show 3 ≤ Config.bufDepth; omega, by decide⟩
  · exact ⟨rfl, rfl, rfl, by decide, by show 3 ≤ Config.bufDepth; omega, by decide⟩

theorem witness_FailingReadEndsInErrChannel :
    ((awaiting 2 [5] ⟨true, false⟩).dstate = .awaitDelim ∧ (awaiting 2 [5] ⟨true, false⟩).moves = .deframe ⟨true, false⟩ :: []) ∧
    ((paying 3 1 [] ⟨true, true⟩).dstate = .awaitPayload ∧ (paying 3 1 [] ⟨true, true⟩).moves = .deframe ⟨true, true⟩ :: []) := by
  decide

theorem witness_DeframerHasNoStepWhenBlocked :
    ({ start with moves := [.deframe good] } : State).dstate = .idle ∧ done98.dstate = .done ∧
    (failed .channel).dstate = .error ∧ ((awaiting 2 [] good).rxq = [] ∧ good.readFails = false) := by decide

/-- A done read, then a delivery, a deframer step and a read that answers once more. -/
theorem witness_EndedReadStaysUntilTheHostActs :
    let s : State := { done98 with moves := [.deliver 7, .deframe good, .issue [0x41, 0]] }
    s.dstate = .done ∧ noRestartIn 3 s = true ∧
    runSteps 3 s = .next { done98 with rxq := [7], results := [⟨.ok, [9, 8]⟩] } := ⟨rfl, rfl, rfl⟩

/-- One echo byte, the delimiter and a late checksum, then one payload byte; and the empty echo. -/
theorem witness_TwoPhaseReadReturnsThePayload :
    let s : State := { start with dstate := .awaitDelim, rxq := [45] ++ [0x02] ++ [190],
                                  moves := [.deframe good, .deframe good, .deliver 2, .deframe good] }
    (s.dstate = .awaitDelim ∧ s.echoCount = 0 ∧ s.nExpect = 0 ∧ s.payCount = 0 ∧ s.payBuf = [] ∧ s.derr = .none) ∧
    (∀ b ∈ ([45] : List Byte), b ≠ 0x02) ∧ [(45 : Byte)].length ≤ Config.bufDepth ∧
    [(2 : Byte)].length = [(45 : Byte)].length ∧
    s.moves = List.replicate ([(45 : Byte)].length + 1) (.deframe ⟨false, false⟩) ++
      [(2 : Byte)].flatMap (fun b => [.deliver b, .deframe ⟨false, false⟩]) ++ [] := by
  have h := depth_fits.2
  exact ⟨⟨rfl, rfl, rfl, rfl, rfl, rfl⟩, by decide, by show 1 ≤ Config.bufDepth; omega, rfl, rfl⟩

/-- The delimiter alone completes a read of no bytes. -/
theorem witness_DoneReadReturnsTheBytesAfterTheDelimiter :
    let s : State := { start with dstate := .awaitDelim, rxq := [2, 7], moves := [.deframe good, .deliver 9] }
    (s.dstate = .awaitDelim ∧ s.echoCount = 0 ∧ s.nExpect = 0 ∧ s.payCount = 0 ∧ s.payBuf = [] ∧ s.derr = .none) ∧
    noRestartIn 2 s = true ∧
    runSteps 2 s = .next { start with dstate := .done, rxq := [9] } ∧ takenInSteps 2 s = [2] := by
  exact ⟨⟨rfl, rfl, rfl, rfl, rfl, rfl⟩, rfl, rfl, rfl⟩

/-- For `EveryStepKeepsTheInvariant` and `SoundStatesNeverFault`: a sound state in the middle of a payload, and its step. -/
theorem witness_EveryStepKeepsTheInvariant :
    SoundState (paying 3 1 [6] good) ∧ ∃ t, step (paying 3 1 [6] good) = .next t := by
  have h := depth_fits.2
  refine ⟨⟨?_, ⟨?_, ?_, ?_⟩, ⟨rfl, ?_, rfl⟩, ?_⟩, _, rfl⟩
  · show (paying 3 1 [6] good).payBuf.map Prod.fst = List.range 1; decide
  · show 3 ≤ Config.bufDepth; omega
  · show 3 ≤ Config.bufDepth; omega
  · decide
  · decide
  · intro r hr; cases hr

theorem witness_DecodeInvertsEncode : (Instr.setFm 9680).wf = true ∧ (Instr.cksum (List.replicate 255 7)).wf = true := by
  simp only [Instr.wf, operandsFit, List.length_replicate]; decide

theorem witness_EncodeInvertsDecode :
    decode .wire [1, 22, 7, 65] = .ok (.switchBand 7 [65]) ∧ decode .descriptor [0x30, 0] = .ok (.decFm []) := ⟨rfl, rfl⟩

end Sys2Proof.Tests
end

/-! ## What an operation answers, and what it leaves unchanged (R20, R22, R71, R257) -/

namespace Sys2Proof.Machine

/-! ### Sound result descriptors -/

theorem resultOf_error_sound (e : Status) : (resultOf (.error e)).sound :=
  ⟨Nat.zero_le _, fun _ => rfl⟩

theorem resultOf_ok_sound {q : List Byte} (h : q.length ≤ 255) : (resultOf (.ok q)).sound :=
  ⟨h, fun hs => absurd rfl hs⟩

/-- A unit that reads an operand first ends in that read's error or goes on with the byte. -/
theorem resultOf_bind_sound {α : Type} (x : Except Status α) {f : α → Except Status (List Byte)}
    (h : ∀ a, (resultOf (f a)).sound) : (resultOf (x >>= f)).sound := by
  cases x with
  | error e => exact resultOf_error_sound e
  | ok a => exact h a

theorem cksumUnit_sound (p : List Byte) : (resultOf (cksumUnit p)).sound := by
  unfold cksumUnit
  split
  · exact resultOf_error_sound _
  · exact resultOf_ok_sound (by simp)

theorem stuffFmBytes_length_le (b0 b1 : Byte) :
    (stuffFmBytes b0 b1).1.length ≤ 3 ∧ (stuffFmBytes b0 b1).2.length ≤ 1 := by
  unfold stuffFmBytes
  split <;> simp

theorem stuffAmBytes_length_le (b0 b1 : Byte) : (stuffAmBytes b0 b1).length ≤ 3 := by
  unfold stuffAmBytes
  split <;> simp

theorem stuffFmUnit_sound (a : List Byte) : (resultOf (stuffFmUnit a)).sound := by
  unfold stuffFmUnit
  split
  · next b0 b1 =>
    have ⟨htail, htrailer⟩ := stuffFmBytes_length_le b0 b1
    refine resultOf_ok_sound ?_
    simp only [List.length_append, List.length_singleton]
    omega
  · exact resultOf_error_sound _

theorem stuffAmUnit_sound (a : List Byte) : (resultOf (stuffAmUnit a)).sound := by
  unfold stuffAmUnit
  split
  · next b0 b1 =>
    have htail := stuffAmBytes_length_le b0 b1
    refine resultOf_ok_sound ?_
    simp only [List.length_append, List.length_singleton]
    omega
  · exact resultOf_error_sound _

theorem unstuffFmUnit_sound (t : List Byte) : (resultOf (unstuffFmUnit t)).sound := by
  unfold unstuffFmUnit
  split
  · split
    · exact resultOf_ok_sound (by simp)
    · split
      · exact resultOf_ok_sound (by simp)
      · exact resultOf_error_sound _
  · split
    · exact resultOf_ok_sound (by simp)
    · exact resultOf_error_sound _
  · exact resultOf_error_sound _

theorem decFmUnit_sound (r : List Byte) : (resultOf (decFmUnit r)).sound := by
  refine resultOf_bind_sound _ fun m => ?_
  split <;>
    exact resultOf_bind_sound _ fun _ => resultOf_bind_sound _ fun _ => resultOf_ok_sound (by simp)

theorem decAmUnit_sound (r : List Byte) : (resultOf (decAmUnit r)).sound := by
  refine resultOf_bind_sound _ fun m => ?_
  split <;>
    exact resultOf_bind_sound _ fun _ => resultOf_bind_sound _ fun _ => resultOf_ok_sound (by simp)

theorem decStateUnit_sound (a : List Byte) : (resultOf (decStateUnit a)).sound := by
  cases a with
  | nil => exact resultOf_error_sound _
  | cons off r => exact resultOf_bind_sound _ fun _ => resultOf_ok_sound (by simp)

theorem decBandUnit_sound (a : List Byte) : (resultOf (decBandUnit a)).sound := by
  cases a with
  | nil => exact resultOf_error_sound _
  | cons off r => exact resultOf_bind_sound _ fun _ => resultOf_ok_sound (by simp)

theorem frame_length (op p : Byte) (d t x : List Byte) :
    (frame op p d t x).length = t.length + x.length + 5 := by
  simp only [frame, List.length_append, List.length_cons, List.length_nil]
  omega

/-- `FRAME_CMD`'s limit `LEN <= 252` is what makes the longest frame 255 bytes (R213). -/
theorem unstuffedFrame_sound (op p : Byte) (d : List Byte) : (resultOf (unstuffedFrame op p d)).sound := by
  unfold unstuffedFrame
  split
  · exact resultOf_error_sound _
  · refine resultOf_ok_sound ?_
    rw [frame_length, List.length_nil]
    omega

theorem fmFrame_sound (b0 b1 : Byte) : (resultOf (.ok (fmFrame b0 b1))).sound := by
  have ⟨htail, htrailer⟩ := stuffFmBytes_length_le b0 b1
  refine resultOf_ok_sound ?_
  rw [fmFrame, frame_length]
  omega

theorem amFrame_sound (b0 b1 : Byte) : (resultOf (.ok (amFrame b0 b1))).sound := by
  have htail := stuffAmBytes_length_le b0 b1
  refine resultOf_ok_sound ?_
  rw [amFrame, frame_length, List.length_nil]
  omega

theorem frameCmdUnit_sound (a : List Byte) : (resultOf (frameCmdUnit a)).sound := by
  unfold frameCmdUnit
  split
  · exact unstuffedFrame_sound _ _ _
  · exact resultOf_error_sound _

theorem frameSetFmUnit_sound (a : List Byte) : (resultOf (frameSetFmUnit a)).sound := by
  unfold frameSetFmUnit
  split
  · exact fmFrame_sound _ _
  · exact resultOf_error_sound _

theorem frameSetAmUnit_sound (a : List Byte) : (resultOf (frameSetAmUnit a)).sound := by
  unfold frameSetAmUnit
  split
  · exact amFrame_sound _ _
  · exact resultOf_error_sound _

/-! ### Everything an operation can do -/

/-- A combinational operation answers, from every state, the one result that its operands give (R22). -/
theorem exec_combinational {i : Instr} (h : combinational i = true) :
    ∃ x, (resultOf x).sound ∧ ∀ s, exec i s = answer x s := by
  cases i with
  | reset a | deframeStart a | deframeRead a | deframeAbort a => cases h
  | nop a =>
    cases a with
    | nil => exact ⟨.ok [], resultOf_ok_sound (by simp), fun _ => rfl⟩
    | cons b a => exact ⟨.error .errOperand, resultOf_error_sound _, fun _ => rfl⟩
  | cksum p => exact ⟨_, cksumUnit_sound p, fun _ => rfl⟩
  | stuffFm a => exact ⟨_, stuffFmUnit_sound a, fun _ => rfl⟩
  | stuffAm a => exact ⟨_, stuffAmUnit_sound a, fun _ => rfl⟩
  | unstuffFm t => exact ⟨_, unstuffFmUnit_sound t, fun _ => rfl⟩
  | decFm r => exact ⟨_, decFmUnit_sound r, fun _ => rfl⟩
  | decAm r => exact ⟨_, decAmUnit_sound r, fun _ => rfl⟩
  | decState a => exact ⟨_, decStateUnit_sound a, fun _ => rfl⟩
  | decBand a => exact ⟨_, decBandUnit_sound a, fun _ => rfl⟩
  | frameCmd a => exact ⟨_, frameCmdUnit_sound a, fun _ => rfl⟩
  | frameSetFm a => exact ⟨_, frameSetFmUnit_sound a, fun _ => rfl⟩
  | frameSetAm a => exact ⟨_, frameSetAmUnit_sound a, fun _ => rfl⟩
  | getPower d | setPower d | getBlend d | setBlend d | getMute d | setMute d | getBand d | getFm d
  | getAm d | getDeviceId d | switchBand p d => exact ⟨_, unstuffedFrame_sound _ _ d, fun _ => rfl⟩
  | setFm raw => exact ⟨_, fmFrame_sound _ _, fun _ => rfl⟩
  | setAm raw => exact ⟨_, amFrame_sound _ _, fun _ => rfl⟩

theorem eq_deframer_op_of_not_combinational {i : Instr} (h : combinational i = false) :
    ∃ a, i = .reset a ∨ i = .deframeStart a ∨ i = .deframeRead a ∨ i = .deframeAbort a := by
  cases i with
  | reset a => exact ⟨a, .inl rfl⟩
  | deframeStart a => exact ⟨a, .inr (.inl rfl)⟩
  | deframeRead a => exact ⟨a, .inr (.inr (.inl rfl))⟩
  | deframeAbort a => exact ⟨a, .inr (.inr (.inr rfl))⟩
  | _ => cases h

/-- What `exec i s` can answer, over all the instructions: `exec_outcome` ties it to `exec`. -/
inductive ExecOutcome (i : Instr) (s : State) : Out → Prop
  /-- One result and no other change. -/
  | answered (r : ResultDesc) (sound : r.sound) : ExecOutcome i s (.next (s.addResult r))
  /-- The deframer is cleared (R173, R241). -/
  | cleared (op : i = .reset [] ∨ i = .deframeAbort []) :
      ExecOutcome i s (.next (s.clearDeframer.addResult ⟨.ok, []⟩))
  /-- A read begins (R166). -/
  | started (op : i = .deframeStart []) (free : s.busy = false) :
      ExecOutcome i s (.next (s.startRead.addResult ⟨.ok, []⟩))
  /-- The model's own stop of a `DEFRAME_READ` on a buffer with a hole. -/
  | unwritten (done : s.dstate = .done) (hole : Memory.readRange s.payBuf 0 s.payCount.toNat = none) :
      ExecOutcome i s (.fault .unwrittenPayByte)
  /-- The model's own stop of a `DEFRAME_READ` on an error without a code. -/
  | uncoded (error : s.dstate = .error) (code : s.derr = .none) : ExecOutcome i s (.fault .errorWithoutCode)

theorem raise_outcome (i : Instr) (e : Status) (s : State) : ExecOutcome i s (raise e s) :=
  .answered _ (resultOf_error_sound e)

theorem execReset_outcome (a : List Byte) (s : State) : ExecOutcome (.reset a) s (execReset a s) := by
  cases a with
  | nil => exact .cleared (.inl rfl)
  | cons b a => exact raise_outcome _ .errOperand s

theorem execDeframeAbort_outcome (a : List Byte) (s : State) :
    ExecOutcome (.deframeAbort a) s (execDeframeAbort a s) := by
  cases a with
  | nil => exact .cleared (.inr rfl)
  | cons b a => exact raise_outcome _ .errOperand s

theorem execDeframeStart_outcome (a : List Byte) (s : State) :
    ExecOutcome (.deframeStart a) s (execDeframeStart a s) := by
  cases a with
  | nil =>
    simp only [execDeframeStart, noOperands_nil, if_true]
    split
    · exact raise_outcome _ _ s
    · next hfree => exact .started rfl (Bool.eq_false_iff.2 hfree)
  | cons b a => exact raise_outcome _ .errOperand s

theorem derrStatus_eq_none {e : DErr} (h : derrStatus e = none) : e = .none := by
  cases e with
  | none => rfl
  | channel | overflow => cases h

/-- `RLEN` is a byte: what `DEFRAME_READ` returns has `pay_count` bytes, and `pay_count` has 8 bits (R32, R71). -/
theorem readRange_payCount_length_le {m : Memory} {n : Byte} {q : List Byte}
    (h : Memory.readRange m 0 n.toNat = some q) : q.length ≤ 255 := by
  rw [((Memory.readRange_eq_some m n.toNat 0 q).1 h).1]
  exact Nat.le_of_lt_succ n.isLt

theorem execDeframeRead_outcome (a : List Byte) (s : State) :
    ExecOutcome (.deframeRead a) s (execDeframeRead a s) := by
  cases a with
  | cons b a => exact raise_outcome _ .errOperand s
  | nil =>
    simp only [execDeframeRead, noOperands_nil, if_true]
    split
    · exact raise_outcome _ _ s
    · exact .answered _ ⟨Nat.zero_le _, fun _ => rfl⟩
    · exact .answered _ ⟨Nat.zero_le _, fun _ => rfl⟩
    · next hdone =>
      split
      · next q hq => exact .answered _ (resultOf_ok_sound (readRange_payCount_length_le hq))
      · next hole => exact .unwritten hdone hole
    · next herror =>
      split
      · exact raise_outcome _ _ s
      · next hcode => exact .uncoded herror (derrStatus_eq_none hcode)

theorem exec_outcome (i : Instr) (s : State) : ExecOutcome i s (exec i s) := by
  cases hc : combinational i with
  | true =>
    obtain ⟨x, hx, he⟩ := exec_combinational hc
    rw [he s]
    exact .answered _ hx
  | false =>
    obtain ⟨a, rfl | rfl | rfl | rfl⟩ := eq_deframer_op_of_not_combinational hc
    · exact execReset_outcome a s
    · exact execDeframeStart_outcome a s
    · exact execDeframeRead_outcome a s
    · exact execDeframeAbort_outcome a s

/-- Settles O5: each way to end adds one result, and the two that write the deframer end with `OK`. -/
theorem errorsReturnNoBytesAndWriteNoState : Obligations.ErrorsReturnNoBytesAndWriteNoState := by
  intro i s t h
  have ho := exec_outcome i s
  rw [h] at ho
  cases ho with
  | answered r hr => exact ⟨r, rfl, fun hs => ⟨hr.2 hs, rfl⟩⟩
  | cleared _ => exact ⟨_, rfl, fun hs => absurd rfl hs⟩
  | started _ _ => exact ⟨_, rfl, fun hs => absurd rfl hs⟩

/-- Settles O6, by `exec_combinational`. -/
theorem combinationalResultIsAFunctionOfOperands : Obligations.CombinationalResultIsAFunctionOfOperands := by
  intro i h
  obtain ⟨x, _, he⟩ := exec_combinational h
  exact ⟨resultOf x, he⟩

/-- Settles O8: the outcomes that write the deframer are those of the three operations left out. -/
theorem onlyThreeOperationsWriteTheDeframer : Obligations.OnlyThreeOperationsWriteTheDeframer := by
  intro i s t h hreset hstart habort
  have ho := exec_outcome i s
  rw [h] at ho
  cases ho with
  | answered r _ => rfl
  | cleared op =>
    rcases op with op | op
    · exact absurd op (hreset [])
    · exact absurd op (habort [])
  | started op _ => exact absurd op (hstart [])

end Sys2Proof.Machine

/-! ## One step: the move that is made (R20, R36, R39) -/

namespace Sys2Proof.Machine

/-- Settles O1, for a descriptor and for a wire command. -/
theorem stepRunsTheDecodedInstruction : Obligations.StepRunsTheDecodedInstruction :=
  ⟨fun _ _ _ _ hdecode hmoves => (step_cons hmoves).trans (commandStep_ok hdecode _),
   fun _ _ _ _ hdecode hmoves => (step_cons hmoves).trans (commandStep_ok hdecode _)⟩

/-- Settles O10: the move made is the delivery. -/
theorem deliveryAppendsOneByte : Obligations.DeliveryAppendsOneByte :=
  fun _ _ _ hmoves => step_cons hmoves

/-- Settles O11, for a write that works and for one that fails after `k` bytes. -/
theorem hostWriteLeavesTheBlockAlone : Obligations.HostWriteLeavesTheBlockAlone :=
  ⟨fun _ _ _ hmoves => step_cons hmoves, fun _ _ _ _ hmoves => step_cons hmoves⟩

end Sys2Proof.Machine

/-! ## The invariant: it holds at power-on, every step keeps it, and under it nothing faults (R32, R33, R161 to R175) -/

namespace Sys2Proof.Machine

/-! ### What the invariant says in each phase -/

theorem bufDepth_le_255 : Config.bufDepth ≤ 255 := by
  have := Config.bufDepthAboveSeven.isLt
  unfold Config.bufDepth
  omega

theorem phaseSound_idle {s : State} (h : s.dstate = .idle) :
    s.phaseSound ↔ s.echoCount = 0 ∧ s.nExpect = 0 ∧ s.payCount = 0 ∧ s.derr = .none := by
  simp only [State.phaseSound, h]

theorem phaseSound_awaitDelim {s : State} (h : s.dstate = .awaitDelim) :
    s.phaseSound ↔ s.nExpect = 0 ∧ s.payCount = 0 ∧ s.derr = .none := by
  simp only [State.phaseSound, h]

theorem phaseSound_awaitPayload {s : State} (h : s.dstate = .awaitPayload) :
    s.phaseSound ↔ s.nExpect = s.echoCount ∧ s.payCount.toNat < s.nExpect.toNat ∧ s.derr = .none := by
  simp only [State.phaseSound, h]

theorem phaseSound_done {s : State} (h : s.dstate = .done) :
    s.phaseSound ↔ s.nExpect = s.echoCount ∧ s.payCount = s.nExpect ∧ s.derr = .none := by
  simp only [State.phaseSound, h]

theorem phaseSound_error {s : State} (h : s.dstate = .error) : s.phaseSound ↔ s.derr ≠ .none := by
  simp only [State.phaseSound, h]

/-- A byte below another does not wrap when it rises by one. -/
theorem toNat_add_one_of_lt {b : Byte} {n : Nat} (h : b.toNat < n) (hn : n ≤ 255) :
    (b + 1).toNat = b.toNat + 1 :=
  BitVec.toNat_add_of_lt (y := 1#8) (Nat.succ_lt_succ (h.trans_le hn))

/-! ### Every named update keeps the invariant, where it is used -/

/-- The invariant speaks of the deframer's fields and the results alone. -/
theorem soundState_agents (s : State) (q bs : List Byte) (hs : List (List HostAction)) (ms : List Move) :
    SoundState { s with rxq := q, sent := bs, host := hs, moves := ms } ↔ SoundState s := Iff.rfl

theorem soundState_setRxq {s : State} (h : SoundState s) (q : List Byte) : SoundState (s.setRxq q) :=
  (soundState_agents s q s.sent s.host s.moves).2 h

theorem SoundState.addResult {s : State} {r : ResultDesc} (h : SoundState s) (hr : r.sound) :
    SoundState (s.addResult r) := by
  obtain ⟨hbuf, hcounts, hphase, hresults⟩ := h
  exact ⟨hbuf, hcounts, hphase, List.forall_mem_cons.2 ⟨hr, hresults⟩⟩

theorem soundState_clearDeframer {s : State} (h : ∀ r ∈ s.results, r.sound) : SoundState s.clearDeframer :=
  ⟨rfl, ⟨Nat.zero_le _, Nat.zero_le _, Nat.le_refl _⟩, (phaseSound_idle rfl).2 ⟨rfl, rfl, rfl, rfl⟩, h⟩

theorem soundState_startRead {s : State} (h : ∀ r ∈ s.results, r.sound) : SoundState s.startRead :=
  ⟨rfl, ⟨Nat.zero_le _, Nat.zero_le _, Nat.le_refl _⟩, (phaseSound_awaitDelim rfl).2 ⟨rfl, rfl, rfl⟩, h⟩

theorem SoundState.failRead {s : State} {e : DErr} (h : SoundState s) (he : e ≠ .none) :
    SoundState (s.failRead e) := by
  obtain ⟨hbuf, hcounts, _, hresults⟩ := h
  exact ⟨hbuf, hcounts, (phaseSound_error rfl).2 he, hresults⟩

/-- An echo byte within the capacity (R167). -/
theorem SoundState.countEcho {s : State} (h : SoundState s) (hd : s.dstate = .awaitDelim)
    (hroom : s.echoCount.toNat ≠ Config.bufDepth) : SoundState s.countEcho := by
  obtain ⟨hbuf, ⟨hecho, hexpect, hpay⟩, hphase, hresults⟩ := h
  have hlt : s.echoCount.toNat < Config.bufDepth := by omega
  refine ⟨hbuf, ⟨?_, hexpect, hpay⟩, ?_, hresults⟩
  · rw [State.countEcho_echoCount, toNat_add_one_of_lt hlt bufDepth_le_255]
    exact hlt
  · exact (phaseSound_awaitDelim (s := s.countEcho) hd).2 ((phaseSound_awaitDelim hd).1 hphase)

/-- The end of the echo: nothing is expected, or the first payload byte is (R168). -/
theorem SoundState.endEcho {s : State} (h : SoundState s) (hd : s.dstate = .awaitDelim) :
    SoundState s.endEcho := by
  obtain ⟨hbuf, ⟨hecho, -, -⟩, hphase, hresults⟩ := h
  obtain ⟨-, hpay, herr⟩ := (phaseSound_awaitDelim hd).1 hphase
  refine ⟨hbuf, ⟨hecho, hecho, ?_⟩, ?_, hresults⟩
  · simp [hpay]
  · by_cases h0 : s.echoCount = 0
    · exact (phaseSound_done (if_pos h0)).2 ⟨rfl, hpay.trans h0.symm, herr⟩
    · refine (phaseSound_awaitPayload (if_neg h0)).2 ⟨rfl, ?_, herr⟩
      have : s.echoCount.toNat ≠ 0 := fun hn => h0 (BitVec.eq_of_toNat_eq hn)
      simp only [State.endEcho_payCount, State.endEcho_nExpect, hpay]
      exact Nat.pos_of_ne_zero this

/-- The payload step's index is in range: in `AWAIT_PAYLOAD` it is `pay_count < n_expect <= BUF_DEPTH` (R51, R169). -/
theorem SoundState.payCount_lt {s : State} (h : SoundState s) (hd : s.dstate = .awaitPayload) :
    s.payCount.toNat < Config.bufDepth := by
  obtain ⟨-, ⟨-, hexpect, -⟩, hphase, -⟩ := h
  obtain ⟨-, hlt, -⟩ := (phaseSound_awaitPayload hd).1 hphase
  exact hlt.trans_le hexpect

/-- A write at `pay_count` extends a buffer that holds exactly the bytes below it (R169). -/
theorem keys_write_of_exact {m : Memory} {n : Nat} (h : m.map Prod.fst = List.range n) (b : Byte) :
    (Memory.write m n b).map Prod.fst = List.range (n + 1) := by
  have hbelow : ∀ k ∈ m.map Prod.fst, k < n := by
    rw [h]
    exact fun k => List.mem_range.1
  rw [Memory.write_above m n b hbelow, List.map_append, h, List.range_succ]
  rfl

/-- A payload byte: the last one ends the read (R169). -/
theorem SoundState.storePayload {s : State} (h : SoundState s) (hd : s.dstate = .awaitPayload) (b : Byte) :
    SoundState (s.storePayload b) := by
  obtain ⟨hbuf, ⟨hecho, hexpect, -⟩, hphase, hresults⟩ := h
  obtain ⟨heq, hlt, herr⟩ := (phaseSound_awaitPayload hd).1 hphase
  have hnext := toNat_add_one_of_lt hlt (hexpect.trans bufDepth_le_255)
  refine ⟨?_, ⟨hecho, hexpect, ?_⟩, ?_, hresults⟩
  · simp only [State.payBufExact, State.storePayload_payBuf, State.storePayload_payCount, hnext]
    exact keys_write_of_exact hbuf b
  · simp only [State.storePayload_payCount, State.storePayload_nExpect, hnext]
    exact hlt
  · by_cases hlast : s.payCount + 1 = s.nExpect
    · exact (phaseSound_done (if_pos hlast)).2 ⟨heq, hlast, herr⟩
    · refine (phaseSound_awaitPayload ((if_neg hlast).trans hd)).2 ⟨heq, ?_, herr⟩
      have : (s.payCount + 1).toNat ≠ s.nExpect.toNat := fun hn => hlast (BitVec.eq_of_toNat_eq hn)
      simp only [State.storePayload_payCount, State.storePayload_nExpect]
      omega

/-! ### An answer that keeps the invariant and is no fault -/

/-- The answer is no fault, and a next state that it gives is sound. -/
def SoundOut : Out → Prop
  | .next t => SoundState t
  | .fault _ => False
  | .refused _ => True

theorem SoundOut.of_eq_next {o : Out} {t : State} (he : o = .next t) (h : SoundState t) : SoundOut o := by
  rw [he]
  exact h

theorem soundOut_refused (r : Refusal) : SoundOut (.refused r) := trivial

theorem SoundOut.noFault {o : Out} (h : SoundOut o) : noFault o := by
  rintro f rfl
  exact h

/-- A buffer that holds exactly the bytes below `pay_count` has no hole there (R33). -/
theorem readRange_ne_none_of_exact {s : State} (h : s.payBufExact) :
    Memory.readRange s.payBuf 0 s.payCount.toNat ≠ none := by
  have hlen : s.payBuf.length = s.payCount.toNat := by
    simpa using congrArg List.length h
  have hkeys : s.payBuf.map Prod.fst = List.range' 0 s.payBuf.length := by
    rw [hlen, ← List.range_eq_range']
    exact h
  have hread : Memory.readRange s.payBuf 0 s.payCount.toNat = some (s.payBuf.map Prod.snd) :=
    (Memory.readRange_eq_some _ _ _ _).2
      ⟨by rw [List.length_map, hlen], fun k _ => Memory.read_of_keys_range' s.payBuf 0 hkeys k⟩
  simp [hread]

theorem ExecOutcome.soundOut {i : Instr} {s : State} {o : Out} (ho : ExecOutcome i s o) (h : SoundState s) :
    SoundOut o := by
  have ⟨hbuf, _, hphase, hresults⟩ := h
  have hok : (⟨.ok, []⟩ : ResultDesc).sound := resultOf_ok_sound (Nat.zero_le _)
  cases ho with
  | answered r hr => exact h.addResult hr
  | cleared _ => exact (soundState_clearDeframer hresults).addResult hok
  | started _ _ => exact (soundState_startRead hresults).addResult hok
  | unwritten _ hole => exact absurd hole (readRange_ne_none_of_exact hbuf)
  | uncoded herror hcode => exact absurd hcode ((phaseSound_error herror).1 hphase)

theorem exec_sound {s : State} (h : SoundState s) (i : Instr) : SoundOut (exec i s) :=
  (exec_outcome i s).soundOut h

theorem commandStep_sound {s : State} (h : SoundState s) (f : Format) (bs : List Byte) :
    SoundOut (commandStep f bs s) := by
  rcases commandStep_cases f bs s with ⟨i, -, he⟩ | ⟨op, -, he⟩ | ⟨r, he⟩ <;> rw [he]
  · exact exec_sound h i
  · exact h.addResult (resultOf_error_sound .errIllegalOp)
  · exact soundOut_refused r

theorem hostIssue_sound {s : State} (h : SoundState s) (a : HostAction) (bytes : List Byte)
    (rest : List HostAction) (others : List (List HostAction)) : SoundOut (hostIssue a bytes rest others s) := by
  have hc := commandStep_sound h .descriptor bytes
  rcases hostIssue_cases a bytes rest others s with ⟨t, hs, ht, he⟩ | ⟨f, hf, -⟩ | ⟨r, he⟩
  · rw [ht] at hc
    exact .of_eq_next he ((soundState_agents t t.rxq t.sent hs t.moves).2 hc)
  · rw [hf] at hc
    exact hc.elim
  · rw [he]
    exact soundOut_refused r

theorem hostStep_sound {s : State} (h : SoundState s) (w : Option Nat) : SoundOut (hostStep w s) := by
  rcases hostStep_cases w s with ⟨hs, bs, he⟩ | ⟨a, bytes, rest, others, -, -, he⟩ <;> rw [he]
  · exact (soundState_agents s s.rxq bs hs s.moves).2 h
  · exact hostIssue_sound h a bytes rest others

theorem deframeStep_sound {s : State} (h : SoundState s) (draw : ChannelDraw) :
    SoundOut (deframeStep Config.bufDepth draw s) := by
  rcases deframeStep_cases Config.bufDepth draw s with
      ⟨-, he⟩ | ⟨-, -, he⟩ | ⟨-, -, -, he⟩ | ⟨b, q, -, -, -, -, -, he⟩ | ⟨b, q, -, -, hd, -, -, he⟩ |
      ⟨b, q, -, -, -, -, -, he⟩ | ⟨b, q, -, -, hd, -, hroom, he⟩ | ⟨b, q, -, -, hd, -, he⟩ |
      ⟨b, q, -, -, hd, hfull, -⟩
  · exact .of_eq_next he h
  · exact .of_eq_next he (h.failRead (by decide))
  · exact .of_eq_next he h
  · exact .of_eq_next he ((soundState_setRxq h q).failRead (by decide))
  · exact .of_eq_next he ((soundState_setRxq h []).endEcho hd)
  · exact .of_eq_next he ((soundState_setRxq h q).failRead (by decide))
  · exact .of_eq_next he ((soundState_setRxq h q).countEcho hd hroom)
  · exact .of_eq_next he ((soundState_setRxq h q).storePayload hd b)
  · exact absurd (h.payCount_lt hd) hfull

theorem moveStep_sound {s : State} (h : SoundState s) (m : Move) : SoundOut (moveStep m s) := by
  cases m with
  | issue bytes => exact commandStep_sound h .descriptor bytes
  | issueWire bytes => exact commandStep_sound h .wire bytes
  | hostWrite bytes failsAfter =>
    cases failsAfter with
    | none => exact (soundState_agents s s.rxq _ s.host s.moves).2 h
    | some k => exact (soundState_agents s s.rxq _ s.host s.moves).2 h
  | host writeFailsAfter => exact hostStep_sound h writeFailsAfter
  | deliver b => exact soundState_setRxq h _
  | deframe draw => exact deframeStep_sound h draw

theorem step_sound {s : State} (h : SoundState s) : SoundOut (step s) := by
  cases hm : s.moves with
  | nil =>
    rw [step_nil hm]
    exact h
  | cons m rest =>
    rw [step_cons hm]
    exact moveStep_sound ((soundState_agents s s.rxq s.sent s.host rest).2 h) m

theorem runSteps_sound {s : State} (h : SoundState s) (k : Nat) : SoundOut (runSteps k s) := by
  induction k generalizing s with
  | zero => exact h
  | succ k ih =>
    have hstep := step_sound h
    cases hs : step s with
    | next t =>
      rw [hs] at hstep
      rw [runSteps_succ_of_next hs]
      exact ih hstep
    | fault f =>
      rw [hs] at hstep
      exact hstep.elim
    | refused r =>
      rw [runSteps_succ_of_refused hs]
      exact soundOut_refused r

/-! ### The statements about the invariant -/

/-- Settles O15: each field is what R40 says, and an empty store holds no value. -/
theorem powerOnStateIsTheResetTable : Obligations.PowerOnStateIsTheResetTable :=
  ⟨rfl, rfl, rfl, rfl, rfl, Memory.read_nil, rfl, rfl, rfl, rfl⟩

/-- Settles O55: the power-on state is a cleared deframer's, with nothing answered. -/
theorem resetStateIsSound : Obligations.ResetStateIsSound :=
  soundState_clearDeframer (s := State.reset) (List.forall_mem_nil _)

/-- Settles O56: `step_sound`, where the step answers a next state. -/
theorem everyStepKeepsTheInvariant : Obligations.EveryStepKeepsTheInvariant := by
  intro s t h hstep
  have hsound := step_sound h
  rw [hstep] at hsound
  exact hsound

/-- Settles O57: `step_sound`, as no fault is a sound answer. -/
theorem soundStatesNeverFault : Obligations.SoundStatesNeverFault :=
  fun _ h => (step_sound h).noFault

/-- Settles O58: pending sequences and moves leave the power-on state sound, and every step keeps that. -/
theorem runsFromPowerOnNeverFault : Obligations.RunsFromPowerOnNeverFault := fun hs ms k =>
  have hstart := (soundState_agents State.reset State.reset.rxq State.reset.sent hs ms).2 resetStateIsSound
  (runSteps_sound hstart k).noFault

end Sys2Proof.Machine

/-! ## A returned result and a deframer step commute (R22, R57)

A combinational operation only adds its result to the results the host holds, and a deframer step neither reads nor
writes those, whatever it does: `deframeStep_addResult`. -/

namespace Sys2Proof.Machine

/-- The answer of a step with one more result in its next state; a stop stays as it is. -/
def Out.addResult (o : Out) (r : ResultDesc) : Out :=
  match o with
  | .next s => .next (s.addResult r)
  | .fault f => .fault f
  | .refused e => .refused e

@[simp] theorem Out.addResult_next (s : State) (r : ResultDesc) :
    Out.addResult (.next s) r = .next (s.addResult r) := rfl

/-- The outcome of `RxRead()` with one more result in the state it leaves, if it takes a byte. -/
def RxRead.addResult (x : RxRead) (r : ResultDesc) : RxRead :=
  match x with
  | .channelFail => .channelFail
  | .blocked => .blocked
  | .byte b s => .byte b (s.addResult r)

theorem rxRead_addResult (fails : Bool) (s : State) (r : ResultDesc) :
    rxRead fails (s.addResult r) = (rxRead fails s).addResult r := by
  cases fails with
  | true => rfl
  | false =>
    cases hq : s.rxq with
    | nil | cons b q =>
      simp only [rxRead, State.addResult_rxq, hq]
      rfl

theorem echoStep_addResult (depth : Nat) (s : State) (r : ResultDesc) :
    echoStep depth (s.addResult r) = (echoStep depth s).addResult r := by
  by_cases hfull : s.echoCount.toNat = depth
  · simp only [echoStep, State.addResult_echoCount, hfull, reduceIte]
    rfl
  · simp only [echoStep, State.addResult_echoCount, hfull, reduceIte]
    rfl

theorem delimiterStep_addResult (flushFails : Bool) (s : State) (r : ResultDesc) :
    delimiterStep flushFails (s.addResult r) = (delimiterStep flushFails s).addResult r := by
  cases flushFails <;> rfl

theorem payloadStep_addResult (depth : Nat) (b : Byte) (s : State) (r : ResultDesc) :
    payloadStep depth b (s.addResult r) = (payloadStep depth b s).addResult r := by
  by_cases hroom : s.payCount.toNat < depth
  · simp only [payloadStep, State.addResult_payCount, hroom, reduceIte]
    rfl
  · simp only [payloadStep, State.addResult_payCount, hroom, reduceIte]
    rfl

/-- A deframer step neither reads nor writes the results: adding one before it or after it is the same, at a fault too. -/
theorem deframeStep_addResult (depth : Nat) (draw : ChannelDraw) (s : State) (r : ResultDesc) :
    deframeStep depth draw (s.addResult r) = (deframeStep depth draw s).addResult r := by
  cases hd : s.dstate with
  | idle | done | error => simp [deframeStep, hd]
  | awaitDelim =>
    cases hx : rxRead draw.readFails s with
    | channelFail | blocked =>
      simp only [deframeStep, State.addResult_dstate, hd, rxRead_addResult, hx]
      rfl
    | byte b s' =>
      simp only [deframeStep, State.addResult_dstate, hd, rxRead_addResult, hx, RxRead.addResult]
      split
      · exact delimiterStep_addResult draw.flushFails s' r
      · exact echoStep_addResult depth s' r
  | awaitPayload =>
    cases hx : rxRead draw.readFails s with
    | channelFail | blocked =>
      simp only [deframeStep, State.addResult_dstate, hd, rxRead_addResult, hx]
      rfl
    | byte b s' =>
      simp only [deframeStep, State.addResult_dstate, hd, rxRead_addResult, hx, RxRead.addResult]
      exact payloadStep_addResult depth b s' r

/-- Settles O7: the operation adds one and the same result before and after the step (O6), and the step commutes with
adding it. -/
theorem combinationalCommutesWithDeframerStep : Obligations.CombinationalCommutesWithDeframerStep := by
  intro i depth draw s t hcomb hstep
  obtain ⟨r, hexec⟩ := combinationalResultIsAFunctionOfOperands i hcomb
  have hcommute : deframeStep depth draw (s.addResult r) = .next (t.addResult r) := by
    rw [deframeStep_addResult, hstep, Out.addResult_next]
  exact ⟨r, hexec s, hexec t, hcommute⟩

end Sys2Proof.Machine

/-! ## The encodings: a format's bytes and its instructions determine each other (R70, R73, R75, R81, R85)

Decoding what was encoded is `Laws/PerInstr.lean`, one lemma per instruction. The converse goes by the two tables that
the decoders look up: a row's `OP`, or opcode and parameter, is the one that the row's instruction is encoded with. -/

namespace Sys2Proof

open Sys2Proof.Machine Sys2Proof.Laws

/-- Settles O59: each instruction's own lemma of the family `DecodeEncode`. -/
theorem decodeInvertsEncode : Obligations.DecodeInvertsEncode := fun i =>
  match i with
  | .nop a => DecodeEncode.nop a
  | .reset a => DecodeEncode.reset a
  | .cksum p => DecodeEncode.cksum p
  | .stuffFm a => DecodeEncode.stuffFm a
  | .stuffAm a => DecodeEncode.stuffAm a
  | .unstuffFm t => DecodeEncode.unstuffFm t
  | .decFm r => DecodeEncode.decFm r
  | .decAm r => DecodeEncode.decAm r
  | .deframeStart a => DecodeEncode.deframeStart a
  | .deframeRead a => DecodeEncode.deframeRead a
  | .deframeAbort a => DecodeEncode.deframeAbort a
  | .decState a => DecodeEncode.decState a
  | .decBand a => DecodeEncode.decBand a
  | .frameCmd a => DecodeEncode.frameCmd a
  | .frameSetFm a => DecodeEncode.frameSetFm a
  | .frameSetAm a => DecodeEncode.frameSetAm a
  | .getPower d => DecodeEncode.getPower d
  | .setPower d => DecodeEncode.setPower d
  | .getBlend d => DecodeEncode.getBlend d
  | .setBlend d => DecodeEncode.setBlend d
  | .getMute d => DecodeEncode.getMute d
  | .setMute d => DecodeEncode.setMute d
  | .getBand d => DecodeEncode.getBand d
  | .switchBand p d => DecodeEncode.switchBand p d
  | .getFm d => DecodeEncode.getFm d
  | .setFm raw => DecodeEncode.setFm raw
  | .getAm d => DecodeEncode.getAm d
  | .setAm raw => DecodeEncode.setAm raw
  | .getDeviceId d => DecodeEncode.getDeviceId d

/-! ### Command descriptors -/

/-- The row that R73's table finds for `op` is encoded with `op`. -/
theorem decodeOp_eq_some {op : Byte} {a : List Byte} {i : Instr} (h : decodeOp op a = some i) :
    encode i = descriptorBytes op a ∧ i.format = .descriptor ∧ i.wf = operandsFit a := by
  unfold decodeOp at h
  split at h <;> cases h
  all_goals
    next hop =>
      rw [byte_eq_of_toNat hop]
      exact ⟨rfl, rfl, rfl⟩

theorem decodeDescriptor_eq_ok {bs : List Byte} {i : Instr} (h : decodeDescriptor bs = .ok i) :
    ∃ op a, bs = descriptorBytes op a ∧ a.length ≤ 255 ∧ decodeOp op a = some i := by
  unfold decodeDescriptor at h
  split at h
  · next op len a =>
    split at h
    · next hlen =>
      split at h
      · next j hop =>
        cases h
        refine ⟨op, a, ?_, ?_, hop⟩
        · rw [descriptorBytes, hlen, BitVec.ofNat_toNat, BitVec.setWidth_eq]
        · rw [hlen]
          exact Nat.le_of_lt_succ len.isLt
      · cases h
    · cases h
  · cases h

/-! ### Wire commands -/

theorem decodeRaw_eq_some {d : List Byte} {raw : Word16} (h : decodeRaw d = some raw) : d = rawBytes raw := by
  unfold decodeRaw at h
  split at h
  · cases h
    exact (rawBytes_join16 _ _).symm
  · cases h

/-- The row that the wire table finds for `op` and `p` is encoded with them (R220 to R232). -/
theorem decodeWireRow_eq_some {op p : Byte} {d : List Byte} {i : Instr} (h : decodeWireRow op p d = some i)
    (hd : d.length ≤ 253) : encode i = logicalCommand op p d ∧ i.format = .wire ∧ i.wf = true := by
  have hfits : wireDataFits d = true := decide_eq_true hd
  unfold decodeWireRow at h
  split at h
  · next hop =>
    rw [byte_eq_of_toNat hop]
    split at h <;> cases h
    all_goals
      next hp =>
        rw [byte_eq_of_toNat hp]
        exact ⟨rfl, rfl, hfits⟩
  · next hop =>
    rw [byte_eq_of_toNat hop]
    split at h
    case h_1 hp | h_2 hp | h_3 hp =>
      cases h
      rw [byte_eq_of_toNat hp]
      exact ⟨rfl, rfl, hfits⟩
    case h_4 hp | h_5 hp =>
      obtain ⟨raw, hraw, rfl⟩ := Option.map_eq_some_iff.1 h
      rw [byte_eq_of_toNat hp, decodeRaw_eq_some hraw]
      exact ⟨rfl, rfl, rfl⟩
    case h_6 => cases h
  · next hop =>
    cases h
    rw [byte_eq_of_toNat hop]
    exact ⟨rfl, rfl, hfits⟩
  · cases h

theorem decodeWire_eq_ok {bs : List Byte} {i : Instr} (h : decodeWire bs = .ok i) :
    ∃ op p d, bs = logicalCommand op p d ∧ d.length ≤ 253 ∧ decodeWireRow op p d = some i := by
  unfold decodeWire at h
  split at h
  · next dev op p d =>
    split at h
    · next hcond =>
      obtain ⟨rfl, hd⟩ := hcond
      split at h
      · next j hrow =>
        cases h
        exact ⟨op, p, d, rfl, hd, hrow⟩
      · cases h
    · cases h
  · cases h

/-- Settles O60: a decoder's bytes are rebuilt from the row it found, and that row's instruction is encoded so. -/
theorem encodeInvertsDecode : Obligations.EncodeInvertsDecode := by
  intro f bs i h
  cases f with
  | descriptor =>
    obtain ⟨op, a, rfl, hlen, hop⟩ := decodeDescriptor_eq_ok h
    obtain ⟨hencode, hformat, hwf⟩ := decodeOp_eq_some hop
    exact ⟨hencode, hformat, hwf.trans (decide_eq_true hlen)⟩
  | wire =>
    obtain ⟨op, p, d, rfl, hlen, hrow⟩ := decodeWire_eq_ok h
    exact decodeWireRow_eq_some hrow hlen

/-- Settles O2: the decoders compute on words of known bytes. -/
theorem wordsOfTheSpecDecode : Obligations.WordsOfTheSpecDecode :=
  ⟨rfl, rfl, rfl, rfl, rfl, rfl, rfl, rfl, rfl⟩

/-! ### Unassigned operation codes -/

/-- The seven ranges of R74. -/
def unassignedOp (op : Byte) : Prop :=
  (0x02 ≤ op.toNat ∧ op.toNat ≤ 0x0F) ∨ (0x11 ≤ op.toNat ∧ op.toNat ≤ 0x1F) ∨
  (0x23 ≤ op.toNat ∧ op.toNat ≤ 0x2F) ∨ (0x32 ≤ op.toNat ∧ op.toNat ≤ 0x3F) ∨
  (0x43 ≤ op.toNat ∧ op.toNat ≤ 0x4F) ∨ (0x52 ≤ op.toNat ∧ op.toNat ≤ 0x5F) ∨
  (0x63 ≤ op.toNat ∧ op.toNat ≤ 0xFF)

/-- No row of R73's table has an unassigned `OP`. -/
theorem decodeOp_of_unassigned {op : Byte} (h : unassignedOp op) (a : List Byte) : decodeOp op a = none := by
  unfold unassignedOp at h
  unfold decodeOp
  split
  case h_17 => rfl
  all_goals omega

theorem decode_descriptorBytes_of_none {op : Byte} {a : List Byte} (h : a.length ≤ 255)
    (ho : decodeOp op a = none) : decode .descriptor (descriptorBytes op a) = .error (.illegalOp op) := by
  have hlen : a.length = (BitVec.ofNat 8 a.length).toNat := by
    rw [BitVec.toNat_ofNat]
    omega
  simp [decode, descriptorBytes, decodeDescriptor, ← hlen, ho]

/-- Settles O3: the command unit finds no row, and raises before any operation runs. -/
theorem unassignedOpRaisesIllegalOp : Obligations.UnassignedOpRaisesIllegalOp := by
  intro s op a rest hlen hop hmoves
  have hdecode := decode_descriptorBytes_of_none hlen (decodeOp_of_unassigned hop a)
  exact (step_cons hmoves).trans (commandStep_illegalOp hdecode _)

end Sys2Proof

/-! ## The host's sequences (R77)

A host move whose action issues a descriptor runs its instruction, and the result decides what is left of the sequence:
`step_host_issues`. The first three moves of a pseudo-operation are one of these for the frame, the write, and one for
`DEFRAME_START`; a poll is one for `DEFRAME_READ`. -/

namespace Sys2Proof.Machine

/-! ### One host move -/

/-- The descriptor that an action issues, if it issues one: `hostStep_of_descriptor` ties it to the host's step. -/
def HostAction.descriptor : HostAction → Option (List Byte)
  | .issue bytes => some bytes
  | .frame bytes => some bytes
  | .write _ => none
  | .poll _ => some (descriptorBytes 0x41#8 [])

section HostMove

variable {s t : State} {a : HostAction} {bytes : List Byte} {seq : List HostAction} {others : List (List HostAction)}
  {w : Option Nat} {ms : List Move} {i : Instr} {r : ResultDesc} {rs : List ResultDesc}

theorem hostStep_of_descriptor (hhost : s.host = (a :: seq) :: others) (ha : a.descriptor = some bytes) :
    hostStep w s = hostIssue a bytes seq others s := by
  cases a with
  | write b => cases ha
  | issue b | frame b | poll use =>
    cases ha
    simp only [hostStep, hhost]

/-- The host's move where its action issues an instruction that ends in `t` with the result `r`. -/
theorem step_host_issues (hhost : s.host = (a :: seq) :: others) (hmoves : s.moves = .host w :: ms)
    (ha : a.descriptor = some bytes) (hdecode : decode .descriptor bytes = .ok i)
    (hexec : exec i (s.setMoves ms) = .next t) (hr : t.results = r :: rs) :
    step s = .next (t.setHost (afterResult a seq r :: others)) :=
  calc step s = hostStep w (s.setMoves ms) := step_cons hmoves
    _ = hostIssue a bytes seq others (s.setMoves ms) := hostStep_of_descriptor hhost ha
    _ = .next (t.setHost (afterResult a seq r :: others)) :=
      hostIssue_of_result ((commandStep_ok hdecode _).trans hexec) hr

/-- The host's move where its action is a write that does not fail. -/
theorem step_host_writes (hhost : s.host = (.write bytes :: seq) :: others) (hmoves : s.moves = .host none :: ms) :
    step s = .next (((s.setMoves ms).addSent bytes).setHost (seq :: others)) := by
  have hstep : step s = hostStep none (s.setMoves ms) := step_cons hmoves
  rw [hstep]
  simp only [hostStep, State.setMoves_host, hhost]
  rfl

end HostMove

/-! ### Sending the frame and starting the read -/

/-- `DEFRAME_START` while no read is in progress (R166). -/
theorem exec_deframeStart_of_not_busy {s : State} (h : s.busy = false) :
    exec (.deframeStart []) s = .next (s.startRead.addResult ⟨.ok, []⟩) := by
  simp only [exec, execDeframeStart, noOperands_nil, h, if_true, Bool.false_eq_true, if_false, respond]

/-- The host's move that issues a framer: the frame it answers is what the host writes next (R39). -/
theorem step_host_frames {s : State} {bytes f : List Byte} {seq : List HostAction} {others : List (List HostAction)}
    {w : Option Nat} {ms : List Move} {i : Instr} (hhost : s.host = (.frame bytes :: seq) :: others)
    (hmoves : s.moves = .host w :: ms) (hdecode : decode .descriptor bytes = .ok i)
    (hexec : ∀ u, exec i u = respond f u) :
    step s = .next (((s.setMoves ms).addResult ⟨.ok, f⟩).setHost ((.write f :: seq) :: others)) :=
  step_host_issues hhost hmoves rfl hdecode (hexec _) rfl

/-- The host's move that issues `DEFRAME_START` while no read is in progress. -/
theorem step_host_starts {s : State} {seq : List HostAction} {others : List (List HostAction)}
    {w : Option Nat} {ms : List Move} (hhost : s.host = (.issue (descriptorBytes 0x40#8 []) :: seq) :: others)
    (hmoves : s.moves = .host w :: ms) (hfree : s.busy = false) :
    step s = .next (((s.setMoves ms).startRead.addResult ⟨.ok, []⟩).setHost (seq :: others)) :=
  step_host_issues hhost hmoves rfl rfl (exec_deframeStart_of_not_busy hfree) rfl

/-- A framer whose frame is `f` begins a sequence that sends `f` and starts the read (R77). -/
theorem sendsAndStarts_of_frame {bytes f : List Byte} {i : Instr} {use : Option PayloadUse}
    (hdecode : decode .descriptor bytes = .ok i) (hexec : ∀ s, exec i s = respond f s) :
    sendsAndStarts (.frame bytes :: pseudoAwait use) f use := by
  intro s others ms hdelim hpay hhost hmoves
  rw [runSteps_succ_of_next (step_host_frames hhost hmoves hdecode hexec),
    runSteps_succ_of_next (step_host_writes rfl rfl), runSteps_succ_of_next (step_host_starts rfl rfl ?free)]
  case free => simp [Bool.eq_false_iff, busy_iff, hdelim, hpay]
  simp [State.setMoves, State.addResult, State.setHost, State.addSent, State.startRead]

/-- `FRAME_CMD` of data that fits answers its frame (R213). -/
theorem exec_frameCmd_of_fits (op p : Byte) {d : List Byte} (h : d.length ≤ 250) (s : State) :
    exec (.frameCmd (op :: p :: d)) s = respond (frame op p d d []) s := by
  have hunit : frameCmdUnit (op :: p :: d) = .ok (frame op p d d []) := if_neg (by omega)
  simp only [exec, execFrameCmd, hunit, answer_ok]

theorem sendsAndStarts_frameCmd (op p : Byte) {d : List Byte} (use : Option PayloadUse) (h : d.length ≤ 250) :
    sendsAndStarts (.frame (descriptorBytes 0x60#8 (op :: p :: d)) :: pseudoAwait use) (frame op p d d []) use :=
  have hlen : (op :: p :: d).length ≤ 255 := by
    simp only [List.length_cons]
    omega
  sendsAndStarts_of_frame (Laws.DecodeEncode.decode_descriptorBytes hlen rfl) (exec_frameCmd_of_fits op p h)

theorem sendsAndStarts_pseudoSetFm (b0 b1 : Byte) :
    sendsAndStarts (pseudoSetFm (join16 b0 b1)) (fmFrame b0 b1) none := by
  rw [pseudoSetFm, rawBytes_join16]
  exact sendsAndStarts_of_frame (i := .frameSetFm [b0, b1]) rfl fun _ => rfl

theorem sendsAndStarts_pseudoSetAm (b0 b1 : Byte) :
    sendsAndStarts (pseudoSetAm (join16 b0 b1)) (amFrame b0 b1) none := by
  rw [pseudoSetAm, rawBytes_join16]
  exact sendsAndStarts_of_frame (i := .frameSetAm [b0, b1]) rfl fun _ => rfl

/-! ### Polling -/

section Poll

variable {s : State} {use : Option PayloadUse} {seq : List HostAction} {others : List (List HostAction)}
  {w : Option Nat} {ms : List Move} {r : ResultDesc}

theorem exec_deframeRead_of_busy (h : s.busy = true) :
    exec (.deframeRead []) s = .next (s.addResult ⟨.pending, []⟩) := by
  rcases (busy_iff s).1 h with hd | hd <;>
    simp only [exec, execDeframeRead, noOperands_nil, hd, if_true, answerPending]

theorem exec_deframeRead_of_done {q : List Byte} (h : s.dstate = .done)
    (hq : Memory.readRange s.payBuf 0 s.payCount.toNat = some q) :
    exec (.deframeRead []) s = .next (s.addResult ⟨.ok, q⟩) := by
  simp only [exec, execDeframeRead, noOperands_nil, h, hq, if_true, respond]

theorem exec_deframeRead_of_error {e : Status} (h : s.dstate = .error) (he : derrStatus s.derr = some e) :
    exec (.deframeRead []) s = .next (s.addResult ⟨e, []⟩) := by
  simp only [exec, execDeframeRead, noOperands_nil, h, he, if_true, raise]

theorem exec_deframeRead_of_idle (h : s.dstate = .idle) :
    exec (.deframeRead []) s = .next (s.addResult ⟨.errNoFrame, []⟩) := by
  simp only [exec, execDeframeRead, noOperands_nil, h, if_true, raise]

/-- A poll whose `DEFRAME_READ` answers `r`. -/
theorem step_host_polls (hhost : s.host = (.poll use :: seq) :: others) (hmoves : s.moves = .host w :: ms)
    (hexec : exec (.deframeRead []) (s.setMoves ms) = .next ((s.setMoves ms).addResult r)) :
    step s = .next (((s.setMoves ms).addResult r).setHost (afterResult (.poll use) seq r :: others)) :=
  step_host_issues hhost hmoves rfl rfl hexec rfl

theorem afterResult_poll_pending (use : Option PayloadUse) (seq : List HostAction) :
    afterResult (.poll use) seq ⟨.pending, []⟩ = .poll use :: seq := rfl

/-- A poll of a read in progress is repeated: the host's sequences stay as they are (R77). -/
theorem step_host_polls_pending (hhost : s.host = (.poll use :: seq) :: others) (hmoves : s.moves = .host w :: ms)
    (hbusy : s.busy = true) : step s = .next ((s.setMoves ms).addResult ⟨.pending, []⟩) := by
  have hexec : exec (.deframeRead []) (s.setMoves ms) = _ := exec_deframeRead_of_busy hbusy
  rw [step_host_polls hhost hmoves hexec, afterResult_poll_pending, ← hhost]
  rfl

end Poll

/-- Settles O42: the sequences that begin with a framer, the poll in each phase of the read, and an action that issues
a descriptor. -/
theorem hostSequencesSendStartPollAndDecode : Obligations.HostSequencesSendStartPollAndDecode := by
  refine ⟨fun p d use h => sendsAndStarts_frameCmd Const.opRead p use h, sendsAndStarts_pseudoSetFm,
    sendsAndStarts_pseudoSetAm, fun p d h => sendsAndStarts_frameCmd Const.opWrite p none h, ?poll, ?issue⟩
  case poll =>
    intro s use seq others w ms hhost hmoves
    refine ⟨fun hd => ?pending, fun q hd hlen hread => ?done, fun hd he => ?channel, fun hd he => ?overflow,
      fun hd => ?idle⟩
    case pending => exact step_host_polls_pending hhost hmoves ((busy_iff s).2 hd)
    case done =>
      have hq : Memory.readRange s.payBuf 0 s.payCount.toNat = some q := by
        rw [← hlen, Memory.readRange_eq_some]
        exact ⟨rfl, fun k hk => by rw [Nat.zero_add]; exact hread k hk⟩
      rw [step_host_polls hhost hmoves (exec_deframeRead_of_done hd hq)]
      rfl
    case channel => exact step_host_polls hhost hmoves (exec_deframeRead_of_error hd (congrArg derrStatus he))
    case overflow => exact step_host_polls hhost hmoves (exec_deframeRead_of_error hd (congrArg derrStatus he))
    case idle => exact step_host_polls hhost hmoves (exec_deframeRead_of_idle hd)
  case issue =>
    intro s t i r bytes seq others w ms hhost hmoves hdecode hexec hr
    exact step_host_issues hhost hmoves rfl hdecode hexec hr

end Sys2Proof.Machine

/-! ## The checksum calculator (R100 to R105)

The checksum is the wrapping sum's negation (`checksum_eq_neg`), so a list with its checksum appended has the wrapping
sum 0: `byteSum_append_checksum`. The two zero-sum statements read that fact as a number and as a checksum. -/

namespace Sys2Proof.Machine

/-! ### The wrapping sum -/

theorem byteSum_append_checksum (p : List Byte) : byteSum (p ++ [checksum p]) = 0 :=
  calc byteSum (p ++ [checksum p]) = byteSum p + checksum p := by simp
    _ = byteSum p + - byteSum p := by rw [checksum_eq_neg]
    _ = 0 := BitVec.add_right_neg _

/-- The exact sum does not depend on the order, and the wrapping sum is its residue. -/
theorem byteSum_eq_of_perm {p q : List Byte} (h : p.Perm q) : byteSum p = byteSum q := by
  have hsum : (p.map BitVec.toNat).sum = (q.map BitVec.toNat).sum := (h.map BitVec.toNat).sum_eq
  apply BitVec.eq_of_toNat_eq
  rw [byteSum_toNat, byteSum_toNat, hsum]

/-- Settles O18: the wrapping sum of the checksummed list is 0, and no order changes a wrapping sum. -/
theorem checksumOfChecksummedListIsZero : Obligations.ChecksumOfChecksummedListIsZero := by
  refine ⟨fun p _ => ?appended, fun p q hperm => ?order⟩
  case appended =>
    rw [checksum_eq_neg, byteSum_append_checksum]
    exact BitVec.neg_zero 8
  case order => rw [checksum_eq_neg, checksum_eq_neg, byteSum_eq_of_perm hperm]

/-- Settles O17: the wrapping sum of the checksummed list, read as the residue of its exact sum. -/
theorem checksumMakesTheSumZero : Obligations.ChecksumMakesTheSumZero := by
  intro p _
  have hzero := congrArg BitVec.toNat (byteSum_append_checksum p)
  rw [byteSum_toNat] at hzero
  simpa using hzero

/-! ### The operation -/

/-- `CKSUM` of at least one byte answers the checksum alone (R101). -/
theorem exec_cksum_of_ne {p : List Byte} (h : p ≠ []) (s : State) : exec (.cksum p) s = respond [checksum p] s := by
  have hunit : cksumUnit p = .ok [checksum p] := if_neg (mt List.length_eq_zero_iff.1 h)
  simp only [exec, execCksum, hunit, answer_ok]

/-- `CKSUM` of no byte is refused (R101). -/
theorem exec_cksum_nil (s : State) : exec (.cksum []) s = raise .errOperand s := rfl

/-- Settles O16: the byte answered is the checksum, whose value is `checksum_toNat`. -/
theorem cksumReturnsTheNegatedSum : Obligations.CksumReturnsTheNegatedSum :=
  ⟨fun s p h => ⟨checksum p, checksum_toNat p, exec_cksum_of_ne h s⟩, exec_cksum_nil⟩

/-! ### A checksum equal to the delimiter -/

/-- `FRAME_SET_FM` of two bytes answers their frame (R215). -/
theorem exec_frameSetFm_pair (b0 b1 : Byte) (s : State) :
    exec (.frameSetFm [b0, b1]) s = respond (fmFrame b0 b1) s := rfl

/-- Settles O36: the bytes of raw 8857 are not stuffed, and with the command's they sum to 254 modulo 256. -/
theorem checksumMayBeTheDelimiter : Obligations.ChecksumMayBeTheDelimiter := by
  intro s
  have hraw : rawBytes 8857 = [153, 34] := by decide
  have hframe : fmFrame 153 34 = [1, 21, 45, 153, 34, 2, 2] := by decide
  rw [hraw, exec_frameSetFm_pair, hframe]
  rfl

end Sys2Proof.Machine

/-! ## The byte stuffer (R120 to R129, R150)

The FM table is read twice: `stuffFmBytes_cases` gives its rows, and the rows by their condition give the tail and the
trailer apart. `unstuffFmUnit_cases` is its counterpart for `UNSTUFF_FM`; the round trip needs no more than the two. -/

namespace Sys2Proof.Machine

/-! ### The rows of the FM table, by their condition (R121) -/

theorem stuffFmBytes_marker (b1 : Byte) : stuffFmBytes 94 b1 = ([94, 94, b1], []) := rfl

theorem stuffFmBytes_two (b1 : Byte) : stuffFmBytes 2 b1 = ([94, 66, b1], []) := rfl

theorem stuffFmBytes_of_mem_trailerSet {b0 : Byte} (h : b0 ∈ Const.fmTrailerSet) (b1 : Byte) :
    stuffFmBytes b0 b1 = ([b0, b1], [94]) := by
  obtain ⟨h94, h2⟩ := fmTrailer_not_escaped h
  rcases stuffFmBytes_cases b0 b1 with ⟨rfl, -⟩ | ⟨-, hrow⟩ | ⟨rfl, -⟩ | ⟨-, hset, -⟩
  · exact absurd rfl h94
  · exact hrow
  · exact absurd rfl h2
  · exact absurd h hset

theorem stuffFmBytes_of_plain {b0 : Byte} (h94 : b0 ≠ 94) (h2 : b0 ≠ 2) (hset : b0 ∉ Const.fmTrailerSet) (b1 : Byte) :
    stuffFmBytes b0 b1 = ([b0, b1], []) := by
  rcases stuffFmBytes_cases b0 b1 with ⟨h, -⟩ | ⟨h, -⟩ | ⟨h, -⟩ | ⟨-, -, -, hrow⟩
  · exact absurd h h94
  · exact absurd h hset
  · exact absurd h h2
  · exact hrow

/-- A low byte that is not escaped is its own tail, with a trailer or without. -/
theorem fmTail_of_not_escaped {b0 : Byte} (h94 : b0 ≠ 94) (h2 : b0 ≠ 2) (b1 : Byte) :
    (stuffFmBytes b0 b1).1 = [b0, b1] := by
  by_cases hset : b0 ∈ Const.fmTrailerSet
  · rw [stuffFmBytes_of_mem_trailerSet hset]
  · rw [stuffFmBytes_of_plain h94 h2 hset]

theorem fmTrailer_of_not_mem {b0 : Byte} (hset : b0 ∉ Const.fmTrailerSet) (b1 : Byte) :
    (stuffFmBytes b0 b1).2 = [] := by
  rcases stuffFmBytes_cases b0 b1 with ⟨-, hrow⟩ | ⟨h, -⟩ | ⟨-, hrow⟩ | ⟨-, -, -, hrow⟩
  · rw [hrow]
  · exact absurd h hset
  · rw [hrow]
  · rw [hrow]

theorem mem_fmTrailerSet {b0 : Byte} : b0 ∈ Const.fmTrailerSet ↔ b0 = 60 ∨ b0 = 58 ∨ b0 = 56 ∨ b0 = 54 := by
  simp only [List.mem_cons, List.not_mem_nil, or_false]
  exact Iff.rfl

/-! ### The lengths of tail and trailer (R123) -/

theorem fmTail_length (b0 b1 : Byte) :
    (stuffFmBytes b0 b1).1.length = if b0 = 94 ∨ b0 = 2 then 3 else 2 := by
  split
  · next h => rcases h with rfl | rfl <;> rfl
  · next h =>
    obtain ⟨h94, h2⟩ := not_or.1 h
    rw [fmTail_of_not_escaped h94 h2]
    rfl

theorem fmTrailer_length (b0 b1 : Byte) :
    (stuffFmBytes b0 b1).2.length = if b0 ∈ Const.fmTrailerSet then 1 else 0 := by
  split
  · next h => rw [stuffFmBytes_of_mem_trailerSet h]; rfl
  · next h => rw [fmTrailer_of_not_mem h]; rfl

theorem fmTail_length_eq_three (b0 b1 : Byte) : (stuffFmBytes b0 b1).1.length = 3 ↔ b0 = 94 ∨ b0 = 2 := by
  rw [fmTail_length]
  exact Ne.ite_eq_left_iff (by decide)

theorem fmTrailer_length_eq_one (b0 b1 : Byte) : (stuffFmBytes b0 b1).2.length = 1 ↔ b0 ∈ Const.fmTrailerSet := by
  rw [fmTrailer_length]
  exact Ne.ite_eq_left_iff (by decide)

/-- Settles O20: each length has two values, and a byte that takes the trailer is not escaped. -/
theorem fmTailAndTrailerLengths : Obligations.FmTailAndTrailerLengths := by
  intro b0 b1
  refine ⟨fmTail_length_eq_three b0 b1, ?two, fmTrailer_length_eq_one b0 b1, ?zero, fun ⟨hthree, hone⟩ => ?apart⟩
  case two =>
    rw [fmTail_length]
    exact Ne.ite_eq_right_iff (by decide)
  case zero =>
    rw [fmTrailer_length]
    exact Ne.ite_eq_right_iff (by decide)
  case apart =>
    obtain ⟨h94, h2⟩ := fmTrailer_not_escaped ((fmTrailer_length_eq_one b0 b1).1 hone)
    exact ((fmTail_length_eq_three b0 b1).1 hthree).elim h94 h2

/-! ### The rows of `UNSTUFF_FM` (R127) -/

theorem unstuffFmUnit_marker (b1 : Byte) : unstuffFmUnit [94, 94, b1] = .ok [94, b1] := rfl

theorem unstuffFmUnit_two (b1 : Byte) : unstuffFmUnit [94, 66, b1] = .ok [2, b1] := rfl

theorem unstuffFmUnit_plain {b0 : Byte} (h94 : b0 ≠ 94) (h2 : b0 ≠ 2) (b1 : Byte) :
    unstuffFmUnit [b0, b1] = .ok [b0, b1] := if_pos ⟨h94, h2⟩

/-- Everything `UNSTUFF_FM` can do: a tail has one of the three accepted shapes, or it is refused (R127, R252). -/
theorem unstuffFmUnit_cases (t : List Byte) :
    (∃ b1, t = [94, 94, b1]) ∨ (∃ b1, t = [94, 66, b1]) ∨ (∃ b0 b1, b0 ≠ 94 ∧ b0 ≠ 2 ∧ t = [b0, b1]) ∨
    unstuffFmUnit t = .error .errOperand := by
  unfold unstuffFmUnit
  split
  · next a0 a1 a2 =>
    split
    · next h =>
      obtain ⟨rfl, rfl⟩ := h
      exact .inl ⟨a2, rfl⟩
    · split
      · next h =>
        obtain ⟨rfl, rfl⟩ := h
        exact .inr (.inl ⟨a2, rfl⟩)
      · exact .inr (.inr (.inr rfl))
  · next a0 a1 =>
    split
    · next h => exact .inr (.inr (.inl ⟨a0, a1, h.1, h.2, rfl⟩))
    · exact .inr (.inr (.inr rfl))
  · exact .inr (.inr (.inr rfl))

/-! ### The round trip (R128) -/

theorem unstuffFmUnit_fmTail (b0 b1 : Byte) : unstuffFmUnit (stuffFmBytes b0 b1).1 = .ok [b0, b1] := by
  by_cases h94 : b0 = 94
  · rw [h94, stuffFmBytes_marker, unstuffFmUnit_marker]
  · by_cases h2 : b0 = 2
    · rw [h2, stuffFmBytes_two, unstuffFmUnit_two]
    · rw [fmTail_of_not_escaped h94 h2, unstuffFmUnit_plain h94 h2]

theorem fmTail_of_unstuffFmUnit {t : List Byte} {b0 b1 : Byte} (h : unstuffFmUnit t = .ok [b0, b1]) :
    (stuffFmBytes b0 b1).1 = t := by
  rcases unstuffFmUnit_cases t with ⟨c1, rfl⟩ | ⟨c1, rfl⟩ | ⟨c0, c1, h94, h2, rfl⟩ | herror
  · cases h
    exact congrArg Prod.fst (stuffFmBytes_marker b1)
  · cases h
    exact congrArg Prod.fst (stuffFmBytes_two b1)
  · rw [unstuffFmUnit_plain h94 h2] at h
    cases h
    exact fmTail_of_not_escaped h94 h2 _
  · rw [herror] at h
    cases h

/-- An `OK` result comes from a unit that returned its bytes. -/
theorem eq_ok_of_resultOf {x : Except Status (List Byte)} {q : List Byte} (h : resultOf x = ⟨.ok, q⟩)
    (hne : q ≠ []) : x = .ok q := by
  cases x with
  | ok p => exact congrArg Except.ok (congrArg ResultDesc.q h)
  | error e => exact absurd (congrArg ResultDesc.q h).symm hne

/-- Settles O23: unstuffing inverts the table, so the tail determines the pair, and an accepted tail is its pair's. -/
theorem fmStuffingRoundTrips : Obligations.FmStuffingRoundTrips := by
  refine ⟨fun s b0 b1 => ?unstuff, fun s t b0 b1 h => ?stuff, fun b0 b1 c0 c1 h => ?injective⟩
  case unstuff => exact congrArg (answer · s) (unstuffFmUnit_fmTail b0 b1)
  case stuff =>
    have hresult : resultOf (unstuffFmUnit t) = ⟨.ok, [b0, b1]⟩ := answer_eq_next h
    exact fmTail_of_unstuffFmUnit (eq_ok_of_resultOf hresult (List.cons_ne_nil _ _))
  case injective =>
    have hpair := congrArg unstuffFmUnit h
    rw [unstuffFmUnit_fmTail, unstuffFmUnit_fmTail] at hpair
    cases hpair
    exact ⟨rfl, rfl⟩

/-! ### The rows of the AM table (R124) -/

theorem stuffAmBytes_two (b0 : Byte) : stuffAmBytes b0 2 = [b0, 94, 66] := rfl

theorem stuffAmBytes_of_ne_two {b1 : Byte} (h : b1 ≠ 2) (b0 : Byte) : stuffAmBytes b0 b1 = [b0, b1] := by
  rcases stuffAmBytes_cases b0 b1 with ⟨h2, -⟩ | ⟨-, hrow⟩
  · exact absurd h2 h
  · exact hrow

/-! ### The operations -/

/-- A row of the FM table, as `STUFF_FM` answers it (R121). -/
theorem exec_stuffFm_of_row {b0 b1 : Byte} {tail trailer : List Byte} (h : stuffFmBytes b0 b1 = (tail, trailer))
    (s : State) :
    exec (.stuffFm [b0, b1]) s =
      respond ([BitVec.ofNat 8 tail.length] ++ tail ++ [BitVec.ofNat 8 trailer.length] ++ trailer) s := by
  simp only [exec, execStuffFm, stuffFmUnit, h, answer_ok]

/-- A row of the AM table, as `STUFF_AM` answers it (R124). -/
theorem exec_stuffAm_of_row {b0 b1 : Byte} {tail : List Byte} (h : stuffAmBytes b0 b1 = tail) (s : State) :
    exec (.stuffAm [b0, b1]) s = respond ([BitVec.ofNat 8 tail.length] ++ tail) s := by
  simp only [exec, execStuffAm, stuffAmUnit, h, answer_ok]

theorem stuffFmUnit_of_length_ne {a : List Byte} (h : a.length ≠ 2) : stuffFmUnit a = .error .errOperand := by
  unfold stuffFmUnit
  split
  · exact absurd rfl h
  · rfl

theorem stuffAmUnit_of_length_ne {a : List Byte} (h : a.length ≠ 2) : stuffAmUnit a = .error .errOperand := by
  unfold stuffAmUnit
  split
  · exact absurd rfl h
  · rfl

/-- Settles O19, row by row. -/
theorem stuffFmFollowsTheTable : Obligations.StuffFmFollowsTheTable := by
  intro s b0 b1
  refine ⟨?marker, fun h => ?trailer, ?two, fun h94 h60 h58 h56 h54 h2 => ?plain, fun a h => ?refused⟩
  case marker =>
    rintro rfl
    exact exec_stuffFm_of_row (stuffFmBytes_marker b1) s
  case trailer => exact exec_stuffFm_of_row (stuffFmBytes_of_mem_trailerSet (mem_fmTrailerSet.2 h) b1) s
  case two =>
    rintro rfl
    exact exec_stuffFm_of_row (stuffFmBytes_two b1) s
  case plain =>
    have hset : b0 ∉ Const.fmTrailerSet :=
      mt mem_fmTrailerSet.1 (not_or.2 ⟨h60, not_or.2 ⟨h58, not_or.2 ⟨h56, h54⟩⟩⟩)
    exact exec_stuffFm_of_row (stuffFmBytes_of_plain h94 h2 hset b1) s
  case refused => exact congrArg (answer · s) (stuffFmUnit_of_length_ne h)

/-- Settles O21, row by row. -/
theorem stuffAmEscapesOnlyHighByteTwo : Obligations.StuffAmEscapesOnlyHighByteTwo := by
  intro s b0 b1
  refine ⟨?two, fun h => ?plain, fun a h => ?refused⟩
  case two =>
    rintro rfl
    exact exec_stuffAm_of_row (stuffAmBytes_two b0) s
  case plain => exact exec_stuffAm_of_row (stuffAmBytes_of_ne_two h b0) s
  case refused => exact congrArg (answer · s) (stuffAmUnit_of_length_ne h)

/-- Settles O22: the three rows, and `unstuffFmUnit_cases` for a tail that has none of their shapes. -/
theorem unstuffFmAcceptsExactlyThreeTails : Obligations.UnstuffFmAcceptsExactlyThreeTails := by
  intro s
  refine ⟨fun b1 => congrArg (answer · s) (unstuffFmUnit_marker b1),
    fun b1 => congrArg (answer · s) (unstuffFmUnit_two b1),
    fun b0 b1 h94 h2 => congrArg (answer · s) (unstuffFmUnit_plain h94 h2 b1), fun t hmarker htwo hplain => ?refused⟩
  case refused =>
    rcases unstuffFmUnit_cases t with ⟨b1, ht⟩ | ⟨b1, ht⟩ | ⟨b0, b1, h94, h2, ht⟩ | herror
    · exact absurd ht (hmarker b1)
    · exact absurd ht (htwo b1)
    · exact absurd ht (hplain b0 b1 h94 h2)
    · exact congrArg (answer · s) herror

/-! ### The decoders on an escaped value -/

/-- The escaped branch of `DEC_FM`: the pair after the marker, no bias removed (R146). -/
theorem decFmUnit_of_marker {r : List Byte} {lo hi : Byte} (hmarker : r[3]? = some 94) (hlo : r[4]? = some lo)
    (hhi : r[5]? = some hi) : decFmUnit r = .ok [lo, hi] := by
  rw [← rawBytes_join16 lo hi, decFmUnit, byteAt_of_some hmarker, byteAt_of_some hlo, byteAt_of_some hhi]
  rfl

/-- The escaped branch of `DEC_AM`: the bias is removed from the byte after the marker (R148). -/
theorem decAmUnit_of_marker {r : List Byte} {lo hi : Byte} (hmarker : r[4]? = some 94) (hlo : r[3]? = some lo)
    (hhi : r[5]? = some hi) : decAmUnit r = .ok [lo, unbias hi] := by
  rw [decAmUnit, byteAt_of_some hmarker, byteAt_of_some hlo, byteAt_of_some hhi]
  rfl

/-- Settles O27: both tails carry 66 after the marker, and only `DEC_AM` removes the bias from it. -/
theorem decodersOnStuffedCommands : Obligations.DecodersOnStuffedCommands := by
  refine ⟨fun s op b0 => ?am, fun s op b1 => ?fm⟩
  case am =>
    rw [stuffAmBytes_two]
    have hunit : decAmUnit [1, op, 44, b0, 94, 66] = .ok [b0, unbias 66] := decAmUnit_of_marker rfl rfl rfl
    exact congrArg (answer · s) hunit
  case fm =>
    rw [stuffFmBytes_two]
    have hunit : decFmUnit [1, op, 45, 94, 66, b1] = .ok [66, b1] := decFmUnit_of_marker rfl rfl rfl
    exact congrArg (answer · s) hunit

end Sys2Proof.Machine

/-! ## The frequency codec (R140 to R148)

Splitting and joining are said of numbers here; the byte laws are in the operand lemmas. Both decoders have one shape: the
marker's byte is read first, then the byte farthest out on its branch, so one lemma covers every short response. -/

namespace Sys2Proof.Machine

/-! ### Splitting and joining (R142, R143) -/

/-- The two bytes of a raw value do not overlap, so the `or` of R142 is a sum. -/
theorem join16_toNat (b0 b1 : Byte) : (join16 b0 b1).toNat = b0.toNat + 256 * b1.toNat := by
  have hlow : (b0.setWidth 16).toNat = b0.toNat := BitVec.toNat_setWidth_of_le (by decide)
  have hhigh : (b1.setWidth 16 <<< 8).toNat = 2 ^ 8 * b1.toNat := by
    rw [BitVec.toNat_shiftLeft, BitVec.toNat_setWidth_of_le (by decide), Nat.shiftLeft_eq]
    omega
  calc (join16 b0 b1).toNat
      = 2 ^ 8 * b1.toNat ||| b0.toNat := by rw [join16, BitVec.toNat_or, hlow, hhigh, Nat.or_comm]
    _ = 2 ^ 8 * b1.toNat + b0.toNat := (Nat.two_pow_add_eq_or_of_lt b0.isLt b1.toNat).symm
    _ = b0.toNat + 256 * b1.toNat := Nat.add_comm _ _

theorem split16_join16 (b0 b1 : Byte) : split16 (join16 b0 b1) = (b0, b1) :=
  Prod.ext (loByte_join16 b0 b1) (hiByte_join16 b0 b1)

/-- Settles O24, from the value of the joined pair and the byte laws. -/
theorem splitAndJoinRoundTrip : Obligations.SplitAndJoinRoundTrip :=
  ⟨join16_toNat, split16_join16, join16_split⟩

/-! ### The branch without the marker -/

/-- The unescaped branch of `DEC_FM`: the low byte stands where the marker would (R146). -/
theorem decFmUnit_of_not_marker {r : List Byte} {lo hi : Byte} (hne : lo ≠ 94) (hlo : r[3]? = some lo)
    (hhi : r[4]? = some hi) : decFmUnit r = .ok [lo, hi] := by
  rw [← rawBytes_join16 lo hi, decFmUnit, byteAt_of_some hlo, byteAt_of_some hhi]
  exact if_neg hne

/-- The unescaped branch of `DEC_AM`: the bias is removed from both bytes (R148). -/
theorem decAmUnit_of_not_marker {r : List Byte} {lo hi : Byte} (hne : lo ≠ 94) (hlo : r[4]? = some lo)
    (hhi : r[6]? = some hi) : decAmUnit r = .ok [unbias lo, unbias hi] := by
  rw [decAmUnit, byteAt_of_some hlo, byteAt_of_some hhi]
  exact if_neg hne

/-! ### Short responses -/

theorem byteAt_bind_of_short {r : List Byte} {i : Nat} (h : r.length ≤ i) (f : Byte → Except Status (List Byte)) :
    (byteAt r i >>= f) = .error .errShortResponse := by
  rw [byteAt_of_short h]
  rfl

/-- A decoder that looks for the marker at `i` and then reads `j` where it stands, `k` where it does not, refuses a
response that ends before one of these reads. -/
theorem marker_bind_of_short {r : List Byte} {i j k : Nat} {f g : Byte → Byte → Except Status (List Byte)}
    (h : r.length < i + 1 ∨ (r[i]? = some 94 ∧ r.length < j + 1) ∨ (r[i]? ≠ some 94 ∧ r.length < k + 1)) :
    (byteAt r i >>= fun m => if m = Const.esc then byteAt r j >>= f m else byteAt r k >>= g m) =
      .error .errShortResponse := by
  cases hm : r[i]? with
  | none => exact byteAt_bind_of_short (List.getElem?_eq_none_iff.1 hm) _
  | some m =>
    have hi : i < r.length := (List.getElem?_eq_some_iff.1 hm).1
    rw [byteAt_of_some hm]
    rcases h with hshort | ⟨hmarker, hj⟩ | ⟨hother, hk⟩
    · omega
    · have hesc : m = Const.esc := Option.some.inj (hm.symm.trans hmarker)
      exact (if_pos hesc).trans (byteAt_bind_of_short (Nat.le_of_lt_succ hj) _)
    · have hesc : m ≠ Const.esc := fun heq => hother (hm.trans (congrArg some heq))
      exact (if_neg hesc).trans (byteAt_bind_of_short (Nat.le_of_lt_succ hk) _)

theorem decFmUnit_of_short {r : List Byte}
    (h : r.length < 4 ∨ (r[3]? = some 94 ∧ r.length < 6) ∨ (r[3]? ≠ some 94 ∧ r.length < 5)) :
    decFmUnit r = .error .errShortResponse := marker_bind_of_short h

theorem decAmUnit_of_short {r : List Byte}
    (h : r.length < 5 ∨ (r[4]? = some 94 ∧ r.length < 6) ∨ (r[4]? ≠ some 94 ∧ r.length < 7)) :
    decAmUnit r = .error .errShortResponse := marker_bind_of_short h

/-! ### The operations -/

/-- Settles O25, branch by branch. -/
theorem decFmReadsThePairAtTheMarker : Obligations.DecFmReadsThePairAtTheMarker := fun s _ =>
  ⟨fun _ _ hmarker hlo hhi => congrArg (answer · s) (decFmUnit_of_marker hmarker hlo hhi),
    fun _ _ hne hlo hhi => congrArg (answer · s) (decFmUnit_of_not_marker hne hlo hhi),
    fun hshort => congrArg (answer · s) (decFmUnit_of_short hshort)⟩

/-- Settles O26, branch by branch: `unbias` is the subtraction of 64 modulo 256. -/
theorem decAmRemovesTheBias : Obligations.DecAmRemovesTheBias := fun s _ =>
  ⟨fun _ _ hmarker hlo hhi => congrArg (answer · s) (decAmUnit_of_marker hmarker hlo hhi),
    fun _ _ hne hlo hhi => congrArg (answer · s) (decAmUnit_of_not_marker hne hlo hhi),
    fun hshort => congrArg (answer · s) (decAmUnit_of_short hshort)⟩

end Sys2Proof.Machine

/-! ## The response deframer (R160 to R179)

First the three operations, then one deframer step in each of its cases, then the read as a whole. What a read has taken
is said once, phase by phase (`EchoTaken`, `PayloadTaken`), with one lemma for each update of the state that takes a byte;
the schedule of O53 and the free interleaving of O54 both go through these. -/

namespace Sys2Proof.Machine

/-! ### The operations (R166, R173, R175) -/

theorem exec_deframeStart_of_busy {s : State} (h : s.busy = true) :
    exec (.deframeStart []) s = raise .errBusy s := by
  simp only [exec, execDeframeStart, noOperands_nil, h, if_true]

theorem exec_deframer_op_of_operands {a : List Byte} (h : a ≠ []) (s : State) :
    ∀ i ∈ [Instr.deframeStart a, .deframeRead a, .deframeAbort a], exec i s = raise .errOperand s := by
  simp [exec, execDeframeStart, execDeframeRead, execDeframeAbort, noOperands_of_ne h]

/-- `DEFRAME_READ` in `DONE` returns the bytes that the buffer holds below `pay_count` (R175). -/
theorem exec_deframeRead_of_held {s : State} {q : List Byte} (hd : s.dstate = .done)
    (hlen : q.length = s.payCount.toNat) (hheld : ∀ k < q.length, Memory.read s.payBuf k = q[k]?) :
    exec (.deframeRead []) s = .next (s.addResult ⟨.ok, q⟩) := by
  refine exec_deframeRead_of_done hd ((Memory.readRange_eq_some _ _ _ _).2 ⟨hlen, fun k hk => ?_⟩)
  rw [Nat.zero_add]
  exact hheld k (hlen ▸ hk)

theorem not_busy_iff (s : State) : s.busy = false ↔ s.dstate ≠ .awaitDelim ∧ s.dstate ≠ .awaitPayload := by
  rw [Bool.eq_false_iff, ne_eq, busy_iff, not_or]

/-- Settles O44: a read in progress and operands are refused, and else the read begins. -/
theorem deframeStartBeginsARead : Obligations.DeframeStartBeginsARead := fun s =>
  ⟨fun hdelim hpay => exec_deframeStart_of_not_busy ((not_busy_iff s).2 ⟨hdelim, hpay⟩),
    fun hwaits => exec_deframeStart_of_busy ((busy_iff s).2 hwaits),
    fun _ ha => exec_deframer_op_of_operands ha s _ (by simp)⟩

/-- Settles O45, phase by phase. -/
theorem deframeReadReportsTheOutcome : Obligations.DeframeReadReportsTheOutcome := fun s =>
  ⟨exec_deframeRead_of_idle, fun hwaits => exec_deframeRead_of_busy ((busy_iff s).2 hwaits),
    fun _ hd hlen hheld => exec_deframeRead_of_held hd hlen hheld,
    fun hd he => exec_deframeRead_of_error hd (congrArg derrStatus he),
    fun hd he => exec_deframeRead_of_error hd (congrArg derrStatus he),
    fun _ ha => exec_deframer_op_of_operands ha s _ (by simp)⟩

/-- Settles O46: without operands the deframer is cleared whatever its phase. -/
theorem deframeAbortCancelsTheRead : Obligations.DeframeAbortCancelsTheRead := fun s =>
  ⟨rfl, fun _ ha => exec_deframer_op_of_operands ha s _ (by simp)⟩

/-! ### One deframer step (R167 to R172)

The next move is the deframer's, with the draw `draw`. Each lemma is one case of the step, its next state built from the
named updates. -/

section DeframeMove

variable {s : State} {draw : ChannelDraw} {ms : List Move} {b : Byte} {q : List Byte}

theorem rxRead_of_cons (hok : draw.readFails = false) (hq : s.rxq = b :: q) :
    rxRead draw.readFails s = .byte b (s.setRxq q) := by
  simp only [rxRead, hok, hq, Bool.false_eq_true, if_false]

theorem deframeStep_of_not_busy (depth : Nat) (hfree : s.busy = false) : deframeStep depth draw s = .next s := by
  obtain ⟨hdelim, hpay⟩ := (not_busy_iff s).1 hfree
  cases hd : s.dstate with
  | idle | done | error => simp only [deframeStep, hd]
  | awaitDelim => exact absurd hd hdelim
  | awaitPayload => exact absurd hd hpay

theorem deframeStep_of_busy_fails (depth : Nat) (hbusy : s.busy = true) (hfail : draw.readFails = true) :
    deframeStep depth draw s = .next (s.failRead .channel) := by
  have hread : rxRead draw.readFails s = .channelFail := by rw [hfail]; rfl
  rcases (busy_iff s).1 hbusy with hd | hd <;> simp only [deframeStep, hd, hread]

theorem deframeStep_of_empty (depth : Nat) (hok : draw.readFails = false) (hq : s.rxq = []) :
    deframeStep depth draw s = .next s := by
  have hread : rxRead draw.readFails s = .blocked := by simp only [rxRead, hok, hq, Bool.false_eq_true, if_false]
  cases hd : s.dstate <;> simp only [deframeStep, hd, hread]

theorem deframeStep_of_delimiter (depth : Nat) (hd : s.dstate = .awaitDelim) (hok : draw.readFails = false)
    (hq : s.rxq = Const.delim :: q) :
    deframeStep depth draw s = delimiterStep draw.flushFails (s.setRxq q) := by
  simp only [deframeStep, hd, rxRead_of_cons hok hq, if_true]

theorem deframeStep_of_echo (depth : Nat) (hd : s.dstate = .awaitDelim) (hok : draw.readFails = false)
    (hq : s.rxq = b :: q) (hb : b ≠ Const.delim) :
    deframeStep depth draw s = echoStep depth (s.setRxq q) := by
  simp only [deframeStep, hd, rxRead_of_cons hok hq, if_neg hb]

theorem deframeStep_of_payload (depth : Nat) (hd : s.dstate = .awaitPayload) (hok : draw.readFails = false)
    (hq : s.rxq = b :: q) :
    deframeStep depth draw s = payloadStep depth b (s.setRxq q) := by
  simp only [deframeStep, hd, rxRead_of_cons hok hq]

/-- R172: the phases without a step. -/
theorem step_deframe_of_not_busy (hmoves : s.moves = .deframe draw :: ms) (hfree : s.busy = false) :
    step s = .next (s.setMoves ms) :=
  (step_cons hmoves).trans (deframeStep_of_not_busy (s := s.setMoves ms) _ hfree)

/-- R172: nothing to read. -/
theorem step_deframe_of_empty (hmoves : s.moves = .deframe draw :: ms) (hok : draw.readFails = false)
    (hq : s.rxq = []) : step s = .next (s.setMoves ms) :=
  (step_cons hmoves).trans (deframeStep_of_empty (s := s.setMoves ms) _ hok hq)

/-- R171. -/
theorem step_deframe_readFails (hmoves : s.moves = .deframe draw :: ms) (hbusy : s.busy = true)
    (hfail : draw.readFails = true) : step s = .next ((s.setMoves ms).failRead .channel) :=
  (step_cons hmoves).trans (deframeStep_of_busy_fails (s := s.setMoves ms) _ hbusy hfail)

/-- R168 with a failing flush. -/
theorem step_deframe_flushFails (hmoves : s.moves = .deframe draw :: ms) (hd : s.dstate = .awaitDelim)
    (hok : draw.readFails = false) (hq : s.rxq = Const.delim :: q) (hflush : draw.flushFails = true) :
    step s = .next (((s.setMoves ms).setRxq q).failRead .channel) := by
  refine (step_cons hmoves).trans ((deframeStep_of_delimiter (s := s.setMoves ms) _ hd hok hq).trans ?_)
  simp only [delimiterStep, hflush, rxFlush_fails]

/-- R168 with a working flush. -/
theorem step_deframe_flushes (hmoves : s.moves = .deframe draw :: ms) (hd : s.dstate = .awaitDelim)
    (hok : draw.readFails = false) (hq : s.rxq = Const.delim :: q) (hflush : draw.flushFails = false) :
    step s = .next ((s.setMoves ms).setRxq []).endEcho := by
  refine (step_cons hmoves).trans ((deframeStep_of_delimiter (s := s.setMoves ms) _ hd hok hq).trans ?_)
  simp only [delimiterStep, hflush, rxFlush_works]
  rfl

/-- R167 at the capacity. -/
theorem step_deframe_overflows (hmoves : s.moves = .deframe draw :: ms) (hd : s.dstate = .awaitDelim)
    (hok : draw.readFails = false) (hq : s.rxq = b :: q) (hb : b ≠ Const.delim)
    (hfull : s.echoCount.toNat = Config.bufDepth) :
    step s = .next (((s.setMoves ms).setRxq q).failRead .overflow) :=
  (step_cons hmoves).trans ((deframeStep_of_echo (s := s.setMoves ms) _ hd hok hq hb).trans (if_pos hfull))

/-- R167 below the capacity. -/
theorem step_deframe_counts (hmoves : s.moves = .deframe draw :: ms) (hd : s.dstate = .awaitDelim)
    (hok : draw.readFails = false) (hq : s.rxq = b :: q) (hb : b ≠ Const.delim)
    (hroom : s.echoCount.toNat ≠ Config.bufDepth) :
    step s = .next ((s.setMoves ms).setRxq q).countEcho :=
  (step_cons hmoves).trans ((deframeStep_of_echo (s := s.setMoves ms) _ hd hok hq hb).trans (if_neg hroom))

/-- R169. -/
theorem step_deframe_stores (hmoves : s.moves = .deframe draw :: ms) (hd : s.dstate = .awaitPayload)
    (hok : draw.readFails = false) (hq : s.rxq = b :: q) (hroom : s.payCount.toNat < Config.bufDepth) :
    step s = .next (((s.setMoves ms).setRxq q).storePayload b) :=
  (step_cons hmoves).trans ((deframeStep_of_payload (s := s.setMoves ms) _ hd hok hq).trans (if_pos hroom))

end DeframeMove

theorem State.endEcho_of_zero {s : State} (h : s.echoCount = 0) :
    s.endEcho = { s with nExpect := s.echoCount, dstate := .done } := by
  rw [State.endEcho, if_pos h]

theorem State.endEcho_of_ne_zero {s : State} (h : s.echoCount ≠ 0) :
    s.endEcho = { s with nExpect := s.echoCount, dstate := .awaitPayload } := by
  rw [State.endEcho, if_neg h]

/-- Settles O47: `step_deframe_overflows` at the capacity, `step_deframe_counts` below it. -/
theorem echoByteIsCounted : Obligations.EchoByteIsCounted :=
  fun _ _ _ _ _ hd hq hb hmoves =>
    ⟨fun hfull => step_deframe_overflows hmoves hd rfl hq hb hfull,
      fun hroom => step_deframe_counts hmoves hd rfl hq hb hroom⟩

/-- Settles O48: the phase after a working flush is `endEcho`'s, which asks whether the echo was empty. -/
theorem delimiterEndsTheEcho : Obligations.DelimiterEndsTheEcho := by
  intro s q rest hd hq
  refine ⟨fun hmoves => step_deframe_flushFails hmoves hd rfl hq rfl, fun hmoves hzero => ?_, fun hmoves hpos => ?_⟩
  · exact (step_deframe_flushes hmoves hd rfl hq rfl).trans (congrArg _ (State.endEcho_of_zero hzero))
  · exact (step_deframe_flushes hmoves hd rfl hq rfl).trans (congrArg _ (State.endEcho_of_ne_zero hpos))

/-- Settles O49: the buffer after the step is the write at `pay_count`. -/
theorem payloadByteIsStored : Obligations.PayloadByteIsStored := by
  intro s b q flushFails rest hd hq hmoves hlt hdepth
  refine ⟨Memory.write s.payBuf s.payCount.toNat b, ?_, fun k => Memory.read_write _ _ _ _,
    Memory.write_keeps_wf _ _ _⟩
  rw [step_deframe_stores hmoves hd rfl hq (hlt.trans_le hdepth), ← hd]
  rfl

/-- Settles O50: the step, then `DEFRAME_READ` in `ERROR`. -/
theorem failingReadEndsInErrChannel : Obligations.FailingReadEndsInErrChannel :=
  fun s _ _ hwaits hmoves =>
    ⟨step_deframe_readFails hmoves ((busy_iff s).2 hwaits) rfl, exec_deframeRead_of_error rfl rfl⟩

/-- Settles O51: either no read is in progress, or there is nothing to read. -/
theorem deframerHasNoStepWhenBlocked : Obligations.DeframerHasNoStepWhenBlocked := by
  intro s draw rest hmoves hblocked
  rcases hblocked with hd | hd | hd | ⟨hq, hok⟩
  · exact step_deframe_of_not_busy hmoves (by simp [not_busy_iff, hd])
  · exact step_deframe_of_not_busy hmoves (by simp [not_busy_iff, hd])
  · exact step_deframe_of_not_busy hmoves (by simp [not_busy_iff, hd])
  · exact step_deframe_of_empty hmoves hok hq

/-! ### A step that is not the deframer's and does not restart it (R179)

Such a step keeps the read as it is; the channel may have delivered a byte. -/

/-- In `t` the read stands as in `s`, and the channel's queue has at most grown at its end. -/
structure ReadKept (s t : State) : Prop where
  dstate : t.dstate = s.dstate
  derr : t.derr = s.derr
  echoCount : t.echoCount = s.echoCount
  nExpect : t.nExpect = s.nExpect
  payCount : t.payCount = s.payCount
  payBuf : t.payBuf = s.payBuf
  rxq : ∃ d, t.rxq = s.rxq ++ d

theorem ReadKept.refl (s : State) : ReadKept s s := ⟨rfl, rfl, rfl, rfl, rfl, rfl, [], (List.append_nil _).symm⟩

theorem ReadKept.trans {s t u : State} (h : ReadKept s t) (h' : ReadKept t u) : ReadKept s u := by
  obtain ⟨d, hd⟩ := h.rxq
  obtain ⟨d', hd'⟩ := h'.rxq
  exact ⟨h'.dstate.trans h.dstate, h'.derr.trans h.derr, h'.echoCount.trans h.echoCount, h'.nExpect.trans h.nExpect,
    h'.payCount.trans h.payCount, h'.payBuf.trans h.payBuf, d ++ d', by rw [hd', hd, List.append_assoc]⟩

/-- The fields of the block's surroundings, other than the queue, are no part of the read. -/
theorem readKept_agents (s : State) (bs : List Byte) (rs : List ResultDesc) (hs : List (List HostAction))
    (ms : List Move) : ReadKept s { s with sent := bs, results := rs, host := hs, moves := ms } :=
  ⟨rfl, rfl, rfl, rfl, rfl, rfl, [], (List.append_nil _).symm⟩

theorem ReadKept.setHost {s t : State} (h : ReadKept s t) (hs : List (List HostAction)) : ReadKept s (t.setHost hs) :=
  h.trans (readKept_agents t t.sent t.results hs t.moves)

theorem exec_keepsRead {i : Instr} {s t : State} (h : exec i s = .next t) (hreset : ∀ a, i ≠ .reset a)
    (hstart : ∀ a, i ≠ .deframeStart a) (habort : ∀ a, i ≠ .deframeAbort a) : ReadKept s t := by
  rw [onlyThreeOperationsWriteTheDeframer i s t h hreset hstart habort]
  exact readKept_agents s s.sent t.results s.host s.moves

theorem commandStep_keepsRead {f : Format} {bs : List Byte} {s t : State}
    (hexec : ∀ i, decode f bs = .ok i → exec i s = .next t → ReadKept s t)
    (h : commandStep f bs s = .next t) : ReadKept s t := by
  rcases commandStep_cases f bs s with ⟨i, hi, he⟩ | ⟨op, -, he⟩ | ⟨r, he⟩ <;> rw [he] at h
  · exact hexec i hi h
  · cases h
    exact readKept_agents s s.sent _ s.host s.moves
  · cases h

theorem descriptor_keepsRead {bs : List Byte} {s t : State} (hquiet : restartingDescriptor bs = false)
    (h : commandStep .descriptor bs s = .next t) : ReadKept s t := by
  refine commandStep_keepsRead (fun i hi hexec => exec_keepsRead hexec ?_ ?_ ?_) h
  all_goals
    rintro a rfl
    simp [restartingDescriptor, hi] at hquiet

/-- No wire command writes the deframer: those that do have the descriptor format. -/
theorem wire_keepsRead {bs : List Byte} {s t : State} (h : commandStep .wire bs s = .next t) : ReadKept s t := by
  refine commandStep_keepsRead (fun i hi hexec => ?_) h
  obtain ⟨-, hwire, -⟩ := encodeInvertsDecode _ _ _ hi
  refine exec_keepsRead hexec ?_ ?_ ?_
  all_goals
    rintro a rfl
    cases hwire

theorem hostIssue_keepsRead {a : HostAction} {bytes : List Byte} {rest : List HostAction}
    {others : List (List HostAction)} {s t : State} (hquiet : restartingDescriptor bytes = false)
    (h : hostIssue a bytes rest others s = .next t) : ReadKept s t := by
  rcases hostIssue_cases a bytes rest others s with ⟨u, hs, hu, he⟩ | ⟨f, -, he⟩ | ⟨r, he⟩ <;> rw [he] at h
  · cases h
    exact (descriptor_keepsRead hquiet hu).setHost hs
  · cases h
  · cases h

theorem hostStep_keepsRead {w : Option Nat} {ms : List Move} {s t : State} (hmoves : s.moves = .host w :: ms)
    (hquiet : restartsNext s = false) (h : hostStep w (s.setMoves ms) = .next t) : ReadKept (s.setMoves ms) t := by
  rcases hostStep_cases w (s.setMoves ms) with ⟨hs, bs, he⟩ | ⟨a, bytes, rest, others, hhost, ha, he⟩ <;>
    rw [he] at h
  · cases h
    exact readKept_agents (s.setMoves ms) bs s.results hs ms
  · refine hostIssue_keepsRead ?_ h
    simp only [State.setMoves_host] at hhost
    rcases ha with rfl | rfl | ⟨-, rfl⟩
    · simpa only [restartsNext, hmoves, hhost] using hquiet
    · simpa only [restartsNext, hmoves, hhost] using hquiet
    · rfl

/-- A step that does not restart the deframer takes no byte and keeps the read, or is the deframer's own. -/
theorem step_of_not_restarts {s t : State} (hquiet : restartsNext s = false) (h : step s = .next t) :
    (takenByStep s = none ∧ ReadKept s t) ∨ ∃ draw ms, s.moves = .deframe draw :: ms := by
  cases hm : s.moves with
  | nil =>
    rw [step_nil hm] at h
    cases h
    exact .inl ⟨by simp only [takenByStep, hm], .refl s⟩
  | cons m ms =>
    have hset : ReadKept s (s.setMoves ms) := readKept_agents s s.sent s.results s.host ms
    rw [step_cons hm] at h
    cases m with
    | deframe draw => exact .inr ⟨draw, ms, rfl⟩
    | issue bytes =>
      have hbytes : restartingDescriptor bytes = false := by simpa only [restartsNext, hm] using hquiet
      exact .inl ⟨by simp only [takenByStep, hm], hset.trans (descriptor_keepsRead hbytes h)⟩
    | issueWire bytes => exact .inl ⟨by simp only [takenByStep, hm], hset.trans (wire_keepsRead h)⟩
    | host w => exact .inl ⟨by simp only [takenByStep, hm], hset.trans (hostStep_keepsRead hm hquiet h)⟩
    | hostWrite bytes failsAfter =>
      cases failsAfter with
      | none | some k =>
        cases h
        exact .inl ⟨by simp only [takenByStep, hm], readKept_agents s _ s.results s.host ms⟩
    | deliver b =>
      cases h
      exact .inl ⟨by simp only [takenByStep, hm], rfl, rfl, rfl, rfl, rfl, rfl, [b], rfl⟩

/-! ### Runs that do not restart the deframer -/

/-- What each such step keeps, of the bytes taken so far and the state, holds at the end of such a run. -/
theorem noRestart_induction {P : List Byte → State → Prop}
    (hstep : ∀ taken s t, P taken s → restartsNext s = false → step s = .next t →
      P (taken ++ (takenByStep s).toList) t)
    {k : Nat} {taken : List Byte} {s t : State} (hs : P taken s) (hquiet : noRestartIn k s = true)
    (hrun : runSteps k s = .next t) : P (taken ++ takenInSteps k s) t := by
  induction k generalizing taken s with
  | zero =>
    cases hrun
    rwa [takenInSteps, List.append_nil]
  | succ k ih =>
    obtain ⟨u, hu, hrest⟩ := runSteps_succ_next_inv hrun
    simp only [noRestartIn, hu, Bool.and_eq_true, Bool.not_eq_true'] at hquiet
    obtain ⟨hfirst, hlater⟩ := hquiet
    simp only [takenInSteps, hu, ← List.append_assoc]
    exact ih (hstep taken s u hs hfirst hu) hlater hrest

/-- A read that has ended is kept: the deframer has no step in `DONE` and `ERROR` (R172). -/
theorem step_keeps_ended_read {s t : State} (hended : s.dstate = .done ∨ s.dstate = .error)
    (hquiet : restartsNext s = false) (h : step s = .next t) : ReadKept s t := by
  rcases step_of_not_restarts hquiet h with ⟨-, hkept⟩ | ⟨draw, ms, hmoves⟩
  · exact hkept
  · have hfree : s.busy = false := by rcases hended with hd | hd <;> simp [not_busy_iff, hd]
    rw [step_deframe_of_not_busy hmoves hfree] at h
    cases h
    exact readKept_agents s s.sent s.results s.host ms

/-- Settles O52: every step of the run keeps the ended read. -/
theorem endedReadStaysUntilTheHostActs : Obligations.EndedReadStaysUntilTheHostActs := by
  intro k s t hended hquiet hrun
  have hkept : ReadKept s t :=
    noRestart_induction (P := fun _ u => ReadKept s u) (taken := [])
      (fun _ u v hu hq hv => hu.trans (step_keeps_ended_read (hu.dstate ▸ hended) hq hv)) (.refl s) hquiet hrun
  obtain ⟨hdstate, hderr, hecho, hexpect, hpay, hbuf, hrxq⟩ := hkept
  exact ⟨hdstate, hderr, hecho, hexpect, hpay, hbuf, hrxq⟩

/-! ### What a read has taken (R160, R167 to R170) -/

/-- The read has taken `n` bytes and no delimiter. -/
structure EchoTaken (n : Nat) (s : State) : Prop where
  phase : s.dstate = .awaitDelim
  echoed : s.echoCount.toNat = n
  fits : n ≤ Config.bufDepth
  unpaid : s.payCount = 0
  noError : s.derr = .none

/-- The read has taken an echo of `n` bytes, the delimiter, and then `pay`. -/
structure PayloadTaken (n : Nat) (pay : List Byte) (s : State) : Prop where
  phase : s.dstate = if pay.length = n then .done else .awaitPayload
  echoed : s.echoCount.toNat = n
  expected : s.nExpect.toNat = n
  fits : n ≤ Config.bufDepth
  counted : s.payCount.toNat = pay.length
  le : pay.length ≤ n
  held : ∀ k < pay.length, Memory.read s.payBuf k = pay[k]?
  noError : s.derr = .none

section Taken

variable {n : Nat} {pay : List Byte} {s t : State}

theorem EchoTaken.of_started (hd : s.dstate = .awaitDelim) (hecho : s.echoCount = 0) (hpay : s.payCount = 0)
    (herr : s.derr = .none) : EchoTaken 0 s :=
  ⟨hd, by rw [hecho]; rfl, Nat.zero_le _, hpay, herr⟩

theorem EchoTaken.of_kept (h : EchoTaken n s) (hk : ReadKept s t) : EchoTaken n t :=
  ⟨hk.dstate.trans h.phase, hk.echoCount ▸ h.echoed, h.fits, hk.payCount.trans h.unpaid, hk.derr.trans h.noError⟩

theorem PayloadTaken.of_kept (h : PayloadTaken n pay s) (hk : ReadKept s t) : PayloadTaken n pay t :=
  ⟨hk.dstate.trans h.phase, hk.echoCount ▸ h.echoed, hk.nExpect ▸ h.expected, h.fits, hk.payCount ▸ h.counted,
    h.le, fun k hlt => hk.payBuf ▸ h.held k hlt, hk.derr.trans h.noError⟩

/-- A byte leaves the queue, and a move is made. -/
theorem EchoTaken.of_dequeued (h : EchoTaken n s) (ms : List Move) (q : List Byte) :
    EchoTaken n ((s.setMoves ms).setRxq q) :=
  ⟨h.phase, h.echoed, h.fits, h.unpaid, h.noError⟩

theorem PayloadTaken.of_dequeued (h : PayloadTaken n pay s) (ms : List Move) (q : List Byte) :
    PayloadTaken n pay ((s.setMoves ms).setRxq q) :=
  ⟨h.phase, h.echoed, h.expected, h.fits, h.counted, h.le, h.held, h.noError⟩

theorem EchoTaken.busy (h : EchoTaken n s) : s.busy = true := (busy_iff s).2 (.inl h.phase)

/-- An echo byte below the capacity: the count does not wrap. -/
theorem EchoTaken.countEcho (h : EchoTaken n s) (hroom : n < Config.bufDepth) : EchoTaken (n + 1) s.countEcho :=
  ⟨h.phase, by rw [State.countEcho_echoCount, toNat_add_one_of_lt (h.echoed.trans_lt hroom) bufDepth_le_255, h.echoed],
    hroom, h.unpaid, h.noError⟩

/-- The delimiter: an empty echo completes the read, and any other is followed by its payload. -/
theorem EchoTaken.endEcho (h : EchoTaken n s) : PayloadTaken n [] s.endEcho := by
  refine ⟨?_, h.echoed, h.echoed, h.fits, by simp [h.unpaid], Nat.zero_le _,
    fun k hk => absurd hk (Nat.not_lt_zero k), h.noError⟩
  have hzero : s.echoCount = 0 ↔ ([] : List Byte).length = n := by
    rw [← h.echoed, ← BitVec.toNat_inj]
    exact eq_comm
  simp only [State.endEcho_dstate, hzero]

theorem PayloadTaken.done_of_complete (h : PayloadTaken n pay s) (hall : pay.length = n) : s.dstate = .done :=
  h.phase.trans (if_pos hall)

theorem PayloadTaken.awaits_of_partial (h : PayloadTaken n pay s) (hpart : pay.length ≠ n) : s.dstate = .awaitPayload :=
  h.phase.trans (if_neg hpart)

theorem PayloadTaken.complete_of_done (h : PayloadTaken n pay s) (hd : s.dstate = .done) : pay.length = n := by
  by_contra hpart
  cases hd.symm.trans (h.awaits_of_partial hpart)

/-- A payload byte that is still due, whatever its value. -/
theorem PayloadTaken.storePayload (h : PayloadTaken n pay s) (hdue : pay.length < n) (b : Byte) :
    PayloadTaken n (pay ++ [b]) (s.storePayload b) := by
  have hcount : (s.payCount + 1).toNat = pay.length + 1 := by
    rw [toNat_add_one_of_lt (h.counted.trans_lt hdue) (h.fits.trans bufDepth_le_255), h.counted]
  have hlast : s.payCount + 1 = s.nExpect ↔ (pay ++ [b]).length = n := by
    rw [← BitVec.toNat_inj, hcount, h.expected, List.length_append, List.length_singleton]
  refine ⟨?_, h.echoed, h.expected, h.fits, ?_, ?_, fun k hk => ?_, h.noError⟩
  · simp only [State.storePayload_dstate, hlast, h.awaits_of_partial hdue.ne]
  · rw [State.storePayload_payCount, hcount, List.length_append, List.length_singleton]
  · rw [List.length_append, List.length_singleton]
    exact hdue
  · rw [State.storePayload_payBuf, Memory.read_write, h.counted]
    split
    · next hnew => rw [hnew, List.getElem?_concat_length]
    · next hold =>
      rw [List.length_append, List.length_singleton] at hk
      have hlt : k < pay.length := by omega
      rw [h.held k hlt, List.getElem?_append_left hlt]

/-- A completed read returns its payload (R175). -/
theorem PayloadTaken.deframeRead (h : PayloadTaken n pay s) (hall : pay.length = n) :
    exec (.deframeRead []) s = .next (s.addResult ⟨.ok, pay⟩) :=
  exec_deframeRead_of_held (h.done_of_complete hall) h.counted.symm h.held

end Taken

/-! ### The length law under every interleaving (R178) -/

/-- The bytes `taken` are those of a read that stands as `s` says. -/
inductive ReadTook (taken : List Byte) (s : State) : Prop
  | echo (free : ∀ b ∈ taken, b ≠ Const.delim) (state : EchoTaken taken.length s)
  | payload (echo pay : List Byte) (split : taken = echo ++ [Const.delim] ++ pay) (free : ∀ b ∈ echo, b ≠ Const.delim)
      (state : PayloadTaken echo.length pay s)
  | failed (error : s.dstate = .error)

section Deframe

variable {s : State} {draw : ChannelDraw} {ms : List Move} {b : Byte} {q : List Byte}

theorem takenByStep_of_not_busy (hmoves : s.moves = .deframe draw :: ms) (hfree : s.busy = false) :
    takenByStep s = none := by
  simp [takenByStep, hmoves, hfree]

theorem takenByStep_of_empty (hmoves : s.moves = .deframe draw :: ms) (hq : s.rxq = []) : takenByStep s = none := by
  simp [takenByStep, hmoves, hq]

theorem takenByStep_of_byte (hmoves : s.moves = .deframe draw :: ms) (hbusy : s.busy = true)
    (hok : draw.readFails = false) (hq : s.rxq = b :: q) : takenByStep s = some b := by
  simp [takenByStep, hmoves, hbusy, hok, hq]

end Deframe

theorem ReadTook.of_kept {taken : List Byte} {s t : State} (h : ReadTook taken s) (hk : ReadKept s t) :
    ReadTook taken t := by
  cases h with
  | echo free state => exact .echo free (state.of_kept hk)
  | payload echo pay split free state => exact .payload echo pay split free (state.of_kept hk)
  | failed error => exact .failed (hk.dstate.trans error)

/-- One deframer step while the echo is taken: R167, R168, R171, R172. -/
theorem EchoTaken.readTook_deframe {taken : List Byte} {s t : State} {draw : ChannelDraw} {ms : List Move}
    (hs : EchoTaken taken.length s) (hfree : ∀ b ∈ taken, b ≠ Const.delim) (hmoves : s.moves = .deframe draw :: ms)
    (h : step s = .next t) : ReadTook (taken ++ (takenByStep s).toList) t := by
  cases hok : draw.readFails with
  | true =>
    cases h.symm.trans (step_deframe_readFails hmoves hs.busy hok)
    exact .failed rfl
  | false =>
    cases hq : s.rxq with
    | nil =>
      cases h.symm.trans (step_deframe_of_empty hmoves hok hq)
      rw [takenByStep_of_empty hmoves hq, Option.toList_none, List.append_nil]
      exact .echo hfree (hs.of_kept (readKept_agents s s.sent s.results s.host ms))
    | cons b q =>
      rw [takenByStep_of_byte hmoves hs.busy hok hq, Option.toList_some]
      by_cases hb : b = Const.delim
      · subst hb
        cases hflush : draw.flushFails with
        | true =>
          cases h.symm.trans (step_deframe_flushFails hmoves hs.phase hok hq hflush)
          exact .failed rfl
        | false =>
          cases h.symm.trans (step_deframe_flushes hmoves hs.phase hok hq hflush)
          exact .payload taken [] (List.append_nil _).symm hfree
            (hs.of_dequeued ms []).endEcho
      · by_cases hfull : s.echoCount.toNat = Config.bufDepth
        · cases h.symm.trans (step_deframe_overflows hmoves hs.phase hok hq hb hfull)
          exact .failed rfl
        · cases h.symm.trans (step_deframe_counts hmoves hs.phase hok hq hb hfull)
          have hroom : taken.length < Config.bufDepth := lt_of_le_of_ne hs.fits (hs.echoed ▸ hfull)
          refine .echo ?_ ?_
          · simpa [or_imp, forall_and] using ⟨hfree, hb⟩
          · rw [List.length_append, List.length_singleton]
            exact (hs.of_dequeued ms q).countEcho hroom

/-- One deframer step after the delimiter: R169 to R172. -/
theorem PayloadTaken.readTook_deframe {echo pay : List Byte} {s t : State} {draw : ChannelDraw} {ms : List Move}
    (hs : PayloadTaken echo.length pay s) (hfree : ∀ b ∈ echo, b ≠ Const.delim)
    (hmoves : s.moves = .deframe draw :: ms) (h : step s = .next t) :
    ReadTook (echo ++ [Const.delim] ++ pay ++ (takenByStep s).toList) t := by
  have hkept : ReadKept s (s.setMoves ms) := readKept_agents s s.sent s.results s.host ms
  by_cases hall : pay.length = echo.length
  · have hidle : s.busy = false := by simp [not_busy_iff, hs.done_of_complete hall]
    cases h.symm.trans (step_deframe_of_not_busy hmoves hidle)
    rw [takenByStep_of_not_busy hmoves hidle, Option.toList_none, List.append_nil]
    exact .payload echo pay rfl hfree (hs.of_kept hkept)
  · have hd := hs.awaits_of_partial hall
    have hbusy : s.busy = true := (busy_iff s).2 (.inr hd)
    have hdue : pay.length < echo.length := lt_of_le_of_ne hs.le hall
    cases hok : draw.readFails with
    | true =>
      cases h.symm.trans (step_deframe_readFails hmoves hbusy hok)
      exact .failed rfl
    | false =>
      cases hq : s.rxq with
      | nil =>
        cases h.symm.trans (step_deframe_of_empty hmoves hok hq)
        rw [takenByStep_of_empty hmoves hq, Option.toList_none, List.append_nil]
        exact .payload echo pay rfl hfree (hs.of_kept hkept)
      | cons b q =>
        cases h.symm.trans (step_deframe_stores hmoves hd hok hq (hs.counted.trans_lt (hdue.trans_le hs.fits)))
        rw [takenByStep_of_byte hmoves hbusy hok hq, Option.toList_some, List.append_assoc]
        exact .payload echo (pay ++ [b]) rfl hfree ((hs.of_dequeued ms q).storePayload hdue b)

theorem ReadTook.step {taken : List Byte} {s t : State} (hs : ReadTook taken s) (hquiet : restartsNext s = false)
    (h : step s = .next t) : ReadTook (taken ++ (takenByStep s).toList) t := by
  rcases step_of_not_restarts hquiet h with ⟨hnone, hkept⟩ | ⟨draw, ms, hmoves⟩
  · rw [hnone, Option.toList_none, List.append_nil]
    exact hs.of_kept hkept
  · cases hs with
    | echo free state => exact state.readTook_deframe free hmoves h
    | payload echo pay split free state => exact split ▸ state.readTook_deframe free hmoves h
    | failed error => exact .failed ((step_keeps_ended_read (.inr error) hquiet h).dstate.trans error)

/-- Settles O54: every step of the run keeps `ReadTook`, and in `DONE` that says what `DEFRAME_READ` returns. -/
theorem doneReadReturnsTheBytesAfterTheDelimiter : Obligations.DoneReadReturnsTheBytesAfterTheDelimiter := by
  intro k s t hd hecho _ hpay _ herr hquiet hrun hdone
  have hstart : ReadTook [] s := .echo (List.forall_mem_nil _) (.of_started hd hecho hpay herr)
  have htook : ReadTook ([] ++ takenInSteps k s) t :=
    noRestart_induction (fun _ _ _ => ReadTook.step) hstart hquiet hrun
  cases htook with
  | echo _ state => cases hdone.symm.trans state.phase
  | payload echo pay split free state =>
    have hall := state.complete_of_done hdone
    exact ⟨echo, pay, split, free, hall, state.deframeRead hall⟩
  | failed error => cases hdone.symm.trans error

/-! ### A read on the schedule of R160: the echo, the delimiter, then the payload byte by byte -/

/-- In `t` the channel's queue holds `q` and the moves `ms` are due; nothing was sent or answered since `s`. -/
structure Due (s : State) (q : List Byte) (ms : List Move) (t : State) : Prop where
  rxq : t.rxq = q
  moves : t.moves = ms
  sent : t.sent = s.sent
  results : t.results = s.results

/-- The deframer's move when the channel does not fail. -/
def readMove : Move := .deframe ⟨false, false⟩

/-- The payload bytes arrive one by one, each read before the next. -/
def payloadMoves (pay : List Byte) : List Move := pay.flatMap fun b => [.deliver b, readMove]

theorem payloadMoves_cons (b : Byte) (pay : List Byte) :
    payloadMoves (b :: pay) = .deliver b :: readMove :: payloadMoves pay := rfl

/-- One deframer step for each byte of an echo that fits the buffer (R167). -/
theorem runSteps_takes_echo {s₀ s : State} {n : Nat} {echo q : List Byte} {ms : List Move} (hs : EchoTaken n s)
    (hdue : Due s₀ (echo ++ q) (List.replicate echo.length readMove ++ ms) s)
    (hfree : ∀ b ∈ echo, b ≠ Const.delim) (hfits : n + echo.length ≤ Config.bufDepth) :
    ∃ t, runSteps echo.length s = .next t ∧ EchoTaken (n + echo.length) t ∧ Due s₀ q ms t := by
  induction echo generalizing n s with
  | nil => exact ⟨s, rfl, hs, hdue⟩
  | cons b echo ih =>
    obtain ⟨hb, hfree⟩ := List.forall_mem_cons.1 hfree
    obtain ⟨hrxq, hmoves, hsent, hresults⟩ := hdue
    have hlen : n + (b :: echo).length = n + 1 + echo.length := by rw [List.length_cons]; omega
    rw [hlen] at hfits ⊢
    have hroom : n < Config.bufDepth := by omega
    have hcounts := step_deframe_counts hmoves hs.phase rfl hrxq hb (hs.echoed.trans_ne hroom.ne)
    obtain ⟨t, hrun, ht, hdue⟩ :=
      ih ((hs.of_dequeued _ _).countEcho hroom) ⟨rfl, rfl, hsent, hresults⟩ hfree (by omega)
    exact ⟨t, (runSteps_succ_of_next hcounts).trans hrun, ht, hdue⟩

/-- One delivery and one deframer step for each payload byte still due (R36, R169). -/
theorem runSteps_takes_payload {s₀ s : State} {n : Nat} {got pay : List Byte} {ms : List Move}
    (hs : PayloadTaken n got s)
    (hdue : Due s₀ [] (payloadMoves pay ++ ms) s) (hlen : got.length + pay.length = n) :
    ∃ t, runSteps (2 * pay.length) s = .next t ∧ PayloadTaken n (got ++ pay) t ∧ Due s₀ [] ms t := by
  induction pay generalizing got s with
  | nil => exact ⟨s, rfl, by rwa [List.append_nil], hdue⟩
  | cons b pay ih =>
    obtain ⟨hrxq, hmoves, hsent, hresults⟩ := hdue
    rw [payloadMoves_cons, List.cons_append, List.cons_append] at hmoves
    rw [List.length_cons] at hlen
    have hroom : got.length < n := by omega
    have hdeliver : step s = .next (deliverByte b (s.setMoves (readMove :: (payloadMoves pay ++ ms)))) :=
      step_cons hmoves
    rw [deliverByte, State.setMoves_rxq, hrxq] at hdeliver
    have hu := hs.of_dequeued (readMove :: (payloadMoves pay ++ ms)) [b]
    have hstores := step_deframe_stores rfl (hu.awaits_of_partial hroom.ne) rfl rfl
      (hu.counted.trans_lt (hroom.trans_le hu.fits))
    obtain ⟨t, hrun, ht, hdue⟩ :=
      ih ((hu.of_dequeued _ []).storePayload hroom b) ⟨rfl, rfl, hsent, hresults⟩
        (by rw [List.length_append, List.length_singleton]; omega)
    refine ⟨t, ?_, by rwa [List.append_cons], hdue⟩
    exact (runSteps_succ_of_next hdeliver).trans ((runSteps_succ_of_next hstores).trans hrun)

/-- Settles O53: the echo, the delimiter with its flush, and the payload, one after the other. -/
theorem twoPhaseReadReturnsThePayload : Obligations.TwoPhaseReadReturnsThePayload := by
  intro s echo late pay rest hd hecho _ hpay _ herr hfree hfits hlen hrxq hmoves
  rw [List.append_assoc] at hrxq
  rw [List.replicate_succ', List.append_assoc, List.append_assoc] at hmoves
  obtain ⟨u, hrunEcho, hu, hdueEcho⟩ :=
    runSteps_takes_echo (EchoTaken.of_started hd hecho hpay herr) ⟨hrxq, hmoves, rfl, rfl⟩ hfree
      (by rwa [Nat.zero_add])
  rw [Nat.zero_add] at hu
  have hrunDelim := runSteps_succ_of_next (k := 0)
    (step_deframe_flushes hdueEcho.moves hu.phase rfl hdueEcho.rxq rfl)
  obtain ⟨t, hrunPay, ht, hdue⟩ :=
    runSteps_takes_payload (pay := pay) (hu.of_dequeued _ []).endEcho ⟨rfl, rfl, hdueEcho.sent, hdueEcho.results⟩
      (by rwa [List.length_nil, Nat.zero_add])
  have hrun : runSteps (echo.length + 1 + 2 * pay.length) s = .next t :=
    (runSteps_add ((runSteps_add hrunEcho).trans hrunDelim)).trans hrunPay
  rw [List.nil_append] at ht
  exact ⟨t, hrun, ht.done_of_complete hlen, ht.echoed, ht.expected, ht.counted.trans hlen, ht.noError, hdue.rxq,
    hdue.moves, hdue.sent, hdue.results, ht.deframeRead hlen⟩

end Sys2Proof.Machine

/-! ## The status field decoder (R190 to R195)

The codes of R191 and R193 are the same numbers for the same bytes, so `DEC_BAND` answers what `DEC_STATE` answers: the
operation is followed once, for `DEC_STATE`. -/

namespace Sys2Proof.Machine

/-! ### The mappings (R191, R193) -/

/-- Every byte has a code: one that is neither 64 nor 65 is Unknown (R191, R195). -/
theorem fieldStateCode_fieldStateOf (b : Byte) :
    fieldStateCode (fieldStateOf b) = if b = 64 then 0x00 else if b = 65 then 0x01 else 0x02 := by
  unfold fieldStateOf
  rw [apply_ite fieldStateCode, apply_ite fieldStateCode]
  rfl

theorem bandStateCode_bandStateOf (b : Byte) : bandStateCode (bandStateOf b) = fieldStateCode (fieldStateOf b) := by
  unfold bandStateOf fieldStateOf
  rw [apply_ite bandStateCode, apply_ite bandStateCode, apply_ite fieldStateCode, apply_ite fieldStateCode]
  rfl

/-! ### The byte at the offset (R192) -/

theorem decStateUnit_of_getElem? {off b : Byte} {r : List Byte} (h : r[off.toNat]? = some b) :
    decStateUnit (off :: r) = .ok [if b = 64 then 0x00 else if b = 65 then 0x01 else 0x02] := by
  rw [← fieldStateCode_fieldStateOf, decStateUnit, byteAt_of_some h]
  rfl

theorem decStateUnit_of_short {off : Byte} {r : List Byte} (h : r.length ≤ off.toNat) :
    decStateUnit (off :: r) = .error .errShortResponse := byteAt_bind_of_short h _

theorem decStateUnit_nil : decStateUnit [] = .error .errOperand := rfl

/-! ### The operations -/

/-- Settles O29, from the three ways the decoder's result is found. -/
theorem decStateMapsTheByteAtTheOffset : Obligations.DecStateMapsTheByteAtTheOffset := fun s _ _ =>
  ⟨fun _ hb => congrArg (answer · s) (decStateUnit_of_getElem? hb),
    fun hshort => congrArg (answer · s) (decStateUnit_of_short hshort),
    congrArg (answer · s) decStateUnit_nil⟩

theorem decBandUnit_eq_decStateUnit (a : List Byte) : decBandUnit a = decStateUnit a := by
  cases a with
  | nil => rfl
  | cons off r => simp only [decBandUnit, decStateUnit, bandStateCode_bandStateOf]

theorem exec_decBand_eq_exec_decState (a : List Byte) (s : State) : exec (.decBand a) s = exec (.decState a) s :=
  congrArg (answer · s) (decBandUnit_eq_decStateUnit a)

/-- Settles O30: `DEC_BAND` answers as `DEC_STATE` does, of which O29 says this. -/
theorem decBandMapsTheByteAtTheOffset : Obligations.DecBandMapsTheByteAtTheOffset := by
  intro s off r
  simp only [exec_decBand_eq_exec_decState]
  exact decStateMapsTheByteAtTheOffset s off r

end Sys2Proof.Machine

/-! ## The serial protocol framer (R210 to R231)

What a frame is made of comes first; the three framing operations read it off. A wire command is the framing operation on
its own logical command (`exec_eq_exec_frameCmd_of_encode`, `exec_setFm_eq_exec_frameSetFm`), so it answers what that does. -/

namespace Sys2Proof.Machine

/-! ### The frames (R211) -/

/-- An unstuffed frame has the logical command itself before the delimiter (R213, R219). -/
theorem frame_unstuffed (op p : Byte) (d : List Byte) :
    frame op p d d [] = [1, op, p] ++ d ++ [2, checksum ([1, op, p] ++ d)] := List.append_nil _

/-- The checksum of an FM frame covers the five unstuffed bytes, and the trailer comes last (R215). -/
theorem fmFrame_eq (b0 b1 : Byte) :
    fmFrame b0 b1 =
      [1, 21, 45] ++ (stuffFmBytes b0 b1).1 ++ [2, checksum [1, 21, 45, b0, b1]] ++ (stuffFmBytes b0 b1).2 := rfl

/-- The checksum of an AM frame covers the five unstuffed bytes, and no trailer follows it (R217). -/
theorem amFrame_eq (b0 b1 : Byte) :
    amFrame b0 b1 = [1, 21, 44] ++ stuffAmBytes b0 b1 ++ [2, checksum [1, 21, 44, b0, b1]] := List.append_nil _

theorem fmFrame_of_mem_trailerSet {b0 : Byte} (h : b0 ∈ Const.fmTrailerSet) (b1 : Byte) :
    fmFrame b0 b1 = [1, 21, 45] ++ (stuffFmBytes b0 b1).1 ++ [2, checksum [1, 21, 45, b0, b1], 94] := by
  rw [fmFrame_eq, stuffFmBytes_of_mem_trailerSet h]
  rfl

theorem fmFrame_of_not_mem_trailerSet {b0 : Byte} (h : b0 ∉ Const.fmTrailerSet) (b1 : Byte) :
    fmFrame b0 b1 = [1, 21, 45] ++ (stuffFmBytes b0 b1).1 ++ [2, checksum [1, 21, 45, b0, b1]] := by
  rw [fmFrame_eq, fmTrailer_of_not_mem h, List.append_nil]

/-- The delimiter's index: three bytes of address, opcode and parameter, then the tail (R219). -/
theorem length_command_append (dev op p : Byte) (t : List Byte) : ([dev, op, p] ++ t).length = 3 + t.length :=
  List.length_append

/-- Settles O35, a clause for each kind of frame. -/
theorem framesEndInDelimiterAndChecksum : Obligations.FramesEndInDelimiterAndChecksum :=
  ⟨frame_unstuffed,
    fun _ b1 h => ⟨_, fmFrame_of_mem_trailerSet h b1, length_command_append 1 21 45 _⟩,
    fun _ b1 h => ⟨_, fmFrame_of_not_mem_trailerSet h b1, length_command_append 1 21 45 _⟩,
    fun b0 b1 => ⟨_, amFrame_eq b0 b1, length_command_append 1 21 44 _⟩⟩

/-- Without its delimiter, an unstuffed frame is the logical command with its checksum appended (R218). -/
theorem eraseIdx_frame_unstuffed (op p : Byte) (d : List Byte) :
    (frame op p d d []).eraseIdx (3 + d.length) = [1, op, p] ++ d ++ [checksum ([1, op, p] ++ d)] := by
  rw [frame_unstuffed, ← length_command_append 1 op p, List.eraseIdx_append_of_length_le (Nat.le_refl _),
    Nat.sub_self, List.eraseIdx_cons_zero]

theorem getElem?_frame_unstuffed_delimiter (op p : Byte) (d : List Byte) :
    (frame op p d d [])[3 + d.length]? = some 2 := by
  rw [frame_unstuffed, ← length_command_append 1 op p, List.getElem?_append_right (Nat.le_refl _), Nat.sub_self,
    List.getElem?_cons_zero]

/-- Settles O34: what is left of an unstuffed frame is a checksummed list, whose wrapping sum is 0. The stuffed frame is
`[1, 21, 45, 94, 94, 37, 2, 58]`, whose bytes without the delimiter sum to 350. -/
theorem unstuffedFrameSumsToZero : Obligations.UnstuffedFrameSumsToZero := by
  refine ⟨fun op p d => ⟨?zero, getElem?_frame_unstuffed_delimiter op p d⟩, ?stuffed⟩
  case zero =>
    rw [eraseIdx_frame_unstuffed, ← byteSum_toNat, byteSum_append_checksum]
    rfl
  case stuffed => decide

/-! ### The framing operations -/

/-- `FRAME_CMD` without opcode and parameter, or with more operands than fit a frame, is refused (R213, R252). -/
theorem frameCmdUnit_of_length_out_of_range {a : List Byte} (h : a.length < 2 ∨ 252 < a.length) :
    frameCmdUnit a = .error .errOperand := by
  match a with
  | [] => rfl
  | [_] => rfl
  | op :: p :: d =>
    have hlong : d.length + 2 > 252 := h.resolve_left (Nat.not_lt.2 (Nat.le_add_left 2 d.length))
    exact if_pos hlong

theorem frameSetFmUnit_of_length_ne {a : List Byte} (h : a.length ≠ 2) : frameSetFmUnit a = .error .errOperand := by
  unfold frameSetFmUnit
  split
  · exact absurd rfl h
  · rfl

theorem frameSetAmUnit_of_length_ne {a : List Byte} (h : a.length ≠ 2) : frameSetAmUnit a = .error .errOperand := by
  unfold frameSetAmUnit
  split
  · exact absurd rfl h
  · rfl

/-- `FRAME_SET_AM` of two bytes answers their frame (R217). -/
theorem exec_frameSetAm_pair (b0 b1 : Byte) (s : State) :
    exec (.frameSetAm [b0, b1]) s = respond (amFrame b0 b1) s := rfl

/-- Settles O31: the frame where it fits, and the two ways it does not. -/
theorem frameCmdBuildsTheUnstuffedFrame : Obligations.FrameCmdBuildsTheUnstuffedFrame := by
  refine fun s => ⟨fun op p d h => ?fits, fun a h => ?refused⟩
  case fits =>
    rw [exec_frameCmd_of_fits op p h, frame_unstuffed]
    rfl
  case refused => exact congrArg (answer · s) (frameCmdUnit_of_length_out_of_range h)

/-- Settles O32: two bytes are framed, and no other operands are taken. -/
theorem frameSetFmBuildsTheStuffedFrame : Obligations.FrameSetFmBuildsTheStuffedFrame := by
  refine fun s b0 b1 => ⟨?frame, fun a h => ?refused⟩
  case frame =>
    rw [exec_frameSetFm_pair, fmFrame_eq]
    rfl
  case refused => exact congrArg (answer · s) (frameSetFmUnit_of_length_ne h)

/-- Settles O33: two bytes are framed, and no other operands are taken. -/
theorem frameSetAmBuildsTheStuffedFrame : Obligations.FrameSetAmBuildsTheStuffedFrame := by
  refine fun s b0 b1 => ⟨?frame, fun a h => ?refused⟩
  case frame =>
    rw [exec_frameSetAm_pair, amFrame_eq]
    rfl
  case refused => exact congrArg (answer · s) (frameSetAmUnit_of_length_ne h)

/-! ### The wire commands (45_framer.md section 2) -/

/-- The wire commands that `FRAME_CMD` frames: all but the two frequency writes. `exec_eq_exec_frameCmd_of_encode` ties
it to `exec`. -/
def framedByFrameCmd : Instr → Bool
  | .setFm _ => false
  | .setAm _ => false
  | i => decide (i.format = .wire)

/-- A wire command that is no frequency write does what `FRAME_CMD` does with its logical command, given without the
device address. -/
theorem exec_eq_exec_frameCmd_of_encode {i : Instr} {op p : Byte} {d : List Byte} (h : framedByFrameCmd i = true)
    (hencode : encode i = logicalCommand op p d) (s : State) : exec i s = exec (.frameCmd (op :: p :: d)) s := by
  cases i with
  | getPower e | setPower e | getBlend e | setBlend e | getMute e | setMute e | getBand e | switchBand q e | getFm e
  | getAm e | getDeviceId e =>
    cases hencode
    rfl
  | _ => cases h

/-- A wire command that is no frequency write answers its frame, where its data fits (R213). -/
theorem exec_of_encode_of_fits {i : Instr} {op p : Byte} {d : List Byte} (h : framedByFrameCmd i = true)
    (hencode : encode i = logicalCommand op p d) (hd : d.length ≤ 250) (s : State) :
    exec i s = respond ([1, op, p] ++ d ++ [2, checksum ([1, op, p] ++ d)]) s := by
  rw [exec_eq_exec_frameCmd_of_encode h hencode, exec_frameCmd_of_fits op p hd, frame_unstuffed]

/-- Settles O37: each row's logical command is `[1, 20, p] ++ d`. -/
theorem readCommandsAreFramed : Obligations.ReadCommandsAreFramed := by
  refine fun s => ⟨fun p d i hd hi => ?framed, fun p c i hi => ?empty⟩
  case framed =>
    obtain ⟨hframed, hencode⟩ : framedByFrameCmd i = true ∧ encode i = logicalCommand Const.opRead p d := by
      simp only [List.mem_cons, Prod.mk.injEq, List.not_mem_nil, or_false] at hi
      rcases hi with ⟨rfl, rfl⟩ | ⟨rfl, rfl⟩ | ⟨rfl, rfl⟩ | ⟨rfl, rfl⟩ | ⟨rfl, rfl⟩ | ⟨rfl, rfl⟩ <;> exact ⟨rfl, rfl⟩
    exact exec_of_encode_of_fits hframed hencode hd s
  case empty =>
    obtain ⟨hframed, hencode, rfl⟩ :
        framedByFrameCmd i = true ∧ encode i = logicalCommand Const.opRead p [] ∧ checksum [1, 20, p] = c := by
      simp only [List.mem_cons, Prod.mk.injEq, List.not_mem_nil, or_false] at hi
      rcases hi with ⟨rfl, rfl, rfl⟩ | ⟨rfl, rfl, rfl⟩ | ⟨rfl, rfl, rfl⟩ | ⟨rfl, rfl, rfl⟩ | ⟨rfl, rfl, rfl⟩ |
        ⟨rfl, rfl, rfl⟩ <;> exact ⟨rfl, rfl, rfl⟩
    exact exec_of_encode_of_fits hframed hencode (Nat.zero_le _) s

/-- Settles O39: each row's logical command is `[1, op, p] ++ d`. -/
theorem writeCommandsAreFramed : Obligations.WriteCommandsAreFramed := by
  intro s op p d i hd hi
  obtain ⟨hframed, hencode⟩ : framedByFrameCmd i = true ∧ encode i = logicalCommand op p d := by
    simp only [List.mem_cons, Prod.mk.injEq, List.not_mem_nil, or_false] at hi
    rcases hi with ⟨rfl, rfl, rfl⟩ | ⟨rfl, rfl, rfl⟩ | ⟨rfl, rfl, rfl⟩ | ⟨rfl, -, rfl⟩ <;> exact ⟨rfl, rfl⟩
  exact exec_of_encode_of_fits hframed hencode hd s

/-- `SET_FM` does what `FRAME_SET_FM` does with the raw value's two bytes (R229). -/
theorem exec_setFm_eq_exec_frameSetFm (raw : Word16) (s : State) :
    exec (.setFm raw) s = exec (.frameSetFm (rawBytes raw)) s := rfl

/-- `SET_AM` does what `FRAME_SET_AM` does with the raw value's two bytes (R231). -/
theorem exec_setAm_eq_exec_frameSetAm (raw : Word16) (s : State) :
    exec (.setAm raw) s = exec (.frameSetAm (rawBytes raw)) s := rfl

/-- Settles O41: the framing operations' own statements (O32, O33), on the bytes of the joined value. -/
theorem frequencyWritesAreFramed : Obligations.FrequencyWritesAreFramed := by
  intro s b0 b1
  rw [exec_setFm_eq_exec_frameSetFm, exec_setAm_eq_exec_frameSetAm, rawBytes_join16]
  exact ⟨(frameSetFmBuildsTheStuffedFrame s b0 b1).1, (frameSetAmBuildsTheStuffedFrame s b0 b1).1⟩

end Sys2Proof.Machine

/-! ## The control operations (R240, R241)

Without operands `NOP` and `RESET` answer no bytes, `NOP` from the state as it is and `RESET` from the cleared deframer
(R40); with operands they are refused by the same check. -/

namespace Sys2Proof.Machine

theorem exec_nop_nil (s : State) : exec (.nop []) s = respond [] s := by
  simp only [exec, execNop, noOperands_nil, if_true]

theorem exec_reset_nil (s : State) : exec (.reset []) s = respond [] s.clearDeframer := by
  simp only [exec, execReset, noOperands_nil, if_true]

theorem exec_control_op_of_operands {a : List Byte} (h : a ≠ []) (s : State) :
    ∀ i ∈ [Instr.nop a, .reset a], exec i s = raise .errOperand s := by
  simp [exec, execNop, execReset, noOperands_of_ne h]

/-- Settles O13: without operands the answer is the only change, and operands are refused. -/
theorem nopReturnsOk : Obligations.NopReturnsOk := fun s =>
  ⟨exec_nop_nil s, fun _ ha => exec_control_op_of_operands ha s _ (by simp)⟩

/-- Settles O14: the cleared deframer holds the reset table and every other field of `s`, and operands are refused. -/
theorem resetGivesTheResetTable : Obligations.ResetGivesTheResetTable := fun s =>
  ⟨exec_reset_nil s, fun _ ha => exec_control_op_of_operands ha s _ (by simp)⟩

end Sys2Proof.Machine

/-! ## Errors, status codes and the host's grid (R250 to R287)

Each operation's own section says which operands its unit refuses; the refusals stand together here (R252). `UNSTUFF_FM`
refuses what is no tail of the FM table, and its lengths are those of a tail. -/

namespace Sys2Proof.Machine

/-! ### Status codes (R250) -/

/-- Settles O12: the table of R250, code by code, and the layout of R71. -/
theorem statusCodesAreThoseOfTheTable : Obligations.StatusCodesAreThoseOfTheTable :=
  ⟨rfl, rfl, rfl, rfl, rfl, rfl, rfl, rfl, rfl, fun _ => rfl⟩

/-! ### Refused operands (R252) -/

/-- A unit that refuses its operands makes the operation raise `ERR_OPERAND`. -/
theorem answer_of_refused {x : Except Status (List Byte)} (h : x = .error .errOperand) (s : State) :
    answer x s = raise .errOperand s := congrArg (answer · s) h

theorem exec_noOperand_op_of_operands {a : List Byte} (h : a ≠ []) (s : State) :
    ∀ i ∈ [Instr.nop a, .reset a, .deframeStart a, .deframeRead a, .deframeAbort a], exec i s = raise .errOperand s :=
  List.forall_mem_append.2 ⟨exec_control_op_of_operands h s, exec_deframer_op_of_operands h s⟩

theorem exec_byteList_op_nil (s : State) :
    ∀ i ∈ [Instr.cksum [], .decState [], .decBand []], exec i s = raise .errOperand s := by
  simp only [List.forall_mem_cons]
  exact ⟨exec_cksum_nil s, answer_of_refused decStateUnit_nil s,
    (exec_decBand_eq_exec_decState [] s).trans (answer_of_refused decStateUnit_nil s), List.forall_mem_nil _⟩

theorem exec_pair_op_of_length_ne {a : List Byte} (h : a.length ≠ 2) (s : State) :
    ∀ i ∈ [Instr.stuffFm a, .stuffAm a, .frameSetFm a, .frameSetAm a], exec i s = raise .errOperand s := by
  simp only [List.forall_mem_cons]
  exact ⟨answer_of_refused (stuffFmUnit_of_length_ne h) s, answer_of_refused (stuffAmUnit_of_length_ne h) s,
    answer_of_refused (frameSetFmUnit_of_length_ne h) s, answer_of_refused (frameSetAmUnit_of_length_ne h) s,
    List.forall_mem_nil _⟩

/-- The three shapes that `UNSTUFF_FM` accepts are tails of the FM table. -/
theorem unstuffFmUnit_of_not_fmTail {t : List Byte} (h : ∀ b0 b1 : Byte, (stuffFmBytes b0 b1).1 ≠ t) :
    unstuffFmUnit t = .error .errOperand := by
  rcases unstuffFmUnit_cases t with ⟨b1, rfl⟩ | ⟨b1, rfl⟩ | ⟨b0, b1, h94, h2, rfl⟩ | herror
  · exact absurd (congrArg Prod.fst (stuffFmBytes_marker b1)) (h 94 b1)
  · exact absurd (congrArg Prod.fst (stuffFmBytes_two b1)) (h 2 b1)
  · exact absurd (fmTail_of_not_escaped h94 h2 b1) (h b0 b1)
  · exact herror

theorem fmTail_ne_of_length_ne {t : List Byte} (h2 : t.length ≠ 2) (h3 : t.length ≠ 3) (b0 b1 : Byte) :
    (stuffFmBytes b0 b1).1 ≠ t := by
  rintro rfl
  rw [fmTail_length] at h2 h3
  split at h2
  · next hesc => exact h3 (if_pos hesc)
  · exact h2 rfl

/-- Settles O4: each group of operations has one condition on `LEN`, and a list of the wrong length is no FM tail. -/
theorem refusedOperandsRaiseErrOperand : Obligations.RefusedOperandsRaiseErrOperand := by
  intro s a
  refine ⟨fun h => ?none, fun h => ?atLeastOne, fun h => exec_pair_op_of_length_ne h s, fun h2 h3 => ?tailLength,
    fun h => answer_of_refused (frameCmdUnit_of_length_out_of_range h) s,
    fun h => answer_of_refused (unstuffFmUnit_of_not_fmTail h) s⟩
  case none => exact exec_noOperand_op_of_operands (mt List.length_eq_zero_iff.2 h) s
  case atLeastOne =>
    obtain rfl := List.length_eq_zero_iff.1 h
    exact exec_byteList_op_nil s
  case tailLength => exact answer_of_refused (unstuffFmUnit_of_not_fmTail (fmTail_ne_of_length_ne h2 h3)) s

/-! ### The host's AM grid (R271, R287) -/

theorem loByte_toNat (raw : Word16) : (loByte raw).toNat = raw.toNat % 256 := by
  simp [loByte, BitVec.extractLsb'_toNat]

theorem loByte_eq_delim_iff (raw : Word16) : loByte raw = Const.delim ↔ raw.toNat % 256 = 2 := by
  rw [← BitVec.toNat_inj, loByte_toNat]
  rfl

/-- From 531 to 1602 the values with residue 2 modulo 256 are 770, 1026, 1282 and 1538, and the grid's step of 9 from 531
meets 1026 alone. -/
theorem validAm_mod_eq_two_iff {n : Nat} (h : validAm n) : n % 256 = 2 ↔ n = 1026 := by
  obtain ⟨hlow, hhigh, hgrid⟩ := h
  omega

/-- Settles O43: the low byte is the residue modulo 256. -/
theorem onlyAm1026HasADelimiterLowByte : Obligations.OnlyAm1026HasADelimiterLowByte := by
  intro raw hvalid
  rw [loByte_eq_delim_iff, validAm_mod_eq_two_iff hvalid, ← BitVec.toNat_inj]
  rfl

end Sys2Proof.Machine

/-! ## The channel's queue, short responses, and the open forms of the wire commands (R232, R282, R289)

What no operation touches is read off the outcomes of `exec` (`exec_outcome`). A wire command that `FRAME_CMD` frames is
refused where `FRAME_CMD` refuses its logical command. -/

namespace Sys2Proof.Machine

/-! ### The channel (R282) -/

/-- Settles O9: an operation that answers adds one result to `s`, to the cleared deframer or to the begun read, and
none of these three touches the queue or what the agents hold. -/
theorem noOperationTouchesTheChannel : Obligations.NoOperationTouchesTheChannel := by
  intro i s t h
  have ho := exec_outcome i s
  rw [h] at ho
  cases ho with
  | answered r _ => exact ⟨rfl, rfl, rfl, rfl⟩
  | cleared _ => exact ⟨rfl, rfl, rfl, rfl⟩
  | started _ _ => exact ⟨rfl, rfl, rfl, rfl⟩

/-! ### A response of three bytes (R289) -/

/-- Settles O28: each decoder first reads a byte past the third, at index 3 (`DEC_FM`, and `DEC_STATE` by its offset) or
at index 4 (`DEC_AM`). -/
theorem threeBytePayloadIsTooShort : Obligations.ThreeBytePayloadIsTooShort := by
  intro s r hlen
  have hfm : decFmUnit r = .error .errShortResponse := decFmUnit_of_short (.inl (by omega))
  have ham : decAmUnit r = .error .errShortResponse := decAmUnit_of_short (.inl (by omega))
  have hstate : decStateUnit (3 :: r) = .error .errShortResponse := decStateUnit_of_short hlen.le
  simp only [List.forall_mem_cons]
  exact ⟨congrArg (answer · s) hfm, congrArg (answer · s) ham, congrArg (answer · s) hstate, List.forall_mem_nil _⟩

/-! ### `GET_DEVICE_ID` and oversized data (R232, 45_framer.md section 2) -/

/-- Settles O38: the logical command is `[1, 20, 20] ++ d`; with no data its bytes sum to 41, and 41 + 215 = 256. -/
theorem getDeviceIdIsFramedAsTheSpecReadsIt : Obligations.GetDeviceIdIsFramedAsTheSpecReadsIt := by
  intro s
  have hframed (d : List Byte) (hd : d.length ≤ 250) :
      exec (.getDeviceId d) s = respond ([1, 20, 20] ++ d ++ [2, checksum ([1, 20, 20] ++ d)]) s :=
    exec_of_encode_of_fits rfl rfl hd s
  have hsum : checksum [1, 20, 20] = 215 := rfl
  refine ⟨hframed, (hframed [] (Nat.zero_le _)).trans ?_⟩
  rw [List.append_nil, hsum]
  rfl

/-- A wire command that is no frequency write is refused where its data does not fit a frame (R213). -/
theorem exec_of_encode_of_oversized {i : Instr} {op p : Byte} {d : List Byte} (h : framedByFrameCmd i = true)
    (hencode : encode i = logicalCommand op p d) (hd : 250 < d.length) (s : State) :
    exec i s = raise .errOperand s := by
  have hlong : 252 < (op :: p :: d).length := Nat.add_lt_add_right hd 2
  rw [exec_eq_exec_frameCmd_of_encode h hencode]
  exact answer_of_refused (frameCmdUnit_of_length_out_of_range (.inr hlong)) s

/-- Settles O40: each of the eleven has a logical command that ends in `d`, and `FRAME_CMD` frames it. -/
theorem oversizedWireDataRaisesErrOperand : Obligations.OversizedWireDataRaisesErrOperand := by
  intro s p d hd i hi
  obtain ⟨hframed, op, q, hencode⟩ : framedByFrameCmd i = true ∧ ∃ op q, encode i = logicalCommand op q d := by
    simp only [List.mem_cons, List.not_mem_nil, or_false] at hi
    rcases hi with rfl | rfl | rfl | rfl | rfl | rfl | rfl | rfl | rfl | rfl | rfl <;> exact ⟨rfl, _, _, rfl⟩
  exact exec_of_encode_of_oversized hframed hencode hd s

end Sys2Proof.Machine
